-- ==== Sys2Proof/Word.lean ====
section
/-! DEFINITION. The words of LCDSEQ: bytes, 32-bit host words, 17-bit sequence pointers, line levels (spec/00_scope.md R9, R10). -/

namespace Sys2Proof

/-- A byte: an opcode, an argument, a SEQMEM cell, one `TX` transfer (R9). -/
abbrev Byte := BitVec 8

/-- A host register word (R9). -/
abbrev Word := BitVec 32

/-- A sequence pointer, 0 to 65536 inclusive (R9, R25). -/
abbrev SeqPtr := BitVec 17

/-- The level of an output line, `CS_N` or `DC` (R12): `low` is written 0, `high` is written 1. -/
inductive Level where
  | low
  | high
deriving DecidableEq, Repr, Inhabited

end Sys2Proof
end

