-- ==== Sys2Proof/Config.lean ====
section
/-! DEFINITION. The parameters of an instance of LCDSEQ (spec/00_scope.md R8, spec/10_state.md R49) and the model's free
values. A `Params` is plain data carried by the state and changed by no step, so a statement about every state is a
statement about every instance. The chip behind `State.reset` is built from constants that have no body: nothing can be
proved of their values (spec/93_implementation_defined.md I1, I11, I12, I13, I14). -/

namespace Sys2Proof

/-- The order in which FILL sends pixels (R8 `FILL_ORDER`, R162). -/
inductive FillOrder where
  | columnMajor
  | rowMajor
deriving DecidableEq, Repr, Inhabited

/-- The parameters of one instance (R8). SEQ_BYTES is held as the offset of SEQMEM's last byte, so that
1 <= SEQ_BYTES <= 65536 holds of every value; LCDSEQ_BASE is held as the number of its 1024-byte page. -/
structure Params where
  /-- SEQ_BYTES - 1. -/
  seqLast : BitVec 16
  /-- LCDSEQ_BASE / 1024. -/
  basePage : Nat
  opcMadctl : Byte
  opcFrmctr1 : Byte
  opcRowset : Byte
  opcColset : Byte
  opcRamwr : Byte
  fillOrder : FillOrder
deriving DecidableEq, Repr

/-- SEQ_BYTES, the size of SEQMEM in bytes (R8). -/
def Params.seqBytes (c : Params) : Nat := c.seqLast.toNat + 1

/-- LCDSEQ_BASE, the host address of the register window (R8). -/
def Params.base (c : Params) : Nat := 1024 * c.basePage

/-- SEQ_BYTES - 1 of the chip behind `State.reset` (R8: OPEN). -/
opaque Config.seqLast : BitVec 16

/-- Byte `p` of SEQ_IMAGE of the chip behind `State.reset`, for p < SEQ_BYTES (R8: OPEN). -/
opaque Config.seqImage : Nat → Byte

/-- LCDSEQ_BASE / 1024 of the chip behind `State.reset` (R8: OPEN). -/
opaque Config.basePage : Nat

/-- OPC_MADCTL of the chip behind `State.reset` (R8; I1: a model must not hard-code it). -/
opaque Config.opcMadctl : Byte

/-- OPC_FRMCTR1 of the chip behind `State.reset` (R8, I1). -/
opaque Config.opcFrmctr1 : Byte

/-- OPC_ROWSET of the chip behind `State.reset` (R8, I1). -/
opaque Config.opcRowset : Byte

/-- OPC_COLSET of the chip behind `State.reset` (R8, I1). -/
opaque Config.opcColset : Byte

/-- OPC_RAMWR of the chip behind `State.reset` (R8, I1). -/
opaque Config.opcRamwr : Byte

/-- FILL_ORDER of the chip behind `State.reset` (R8, I14). -/
opaque Config.fillOrder : FillOrder

/-- The parameters of the chip behind `State.reset`. -/
def Config.chip : Params where
  seqLast := Config.seqLast
  basePage := Config.basePage
  opcMadctl := Config.opcMadctl
  opcFrmctr1 := Config.opcFrmctr1
  opcRowset := Config.opcRowset
  opcColset := Config.opcColset
  opcRamwr := Config.opcRamwr
  fillOrder := Config.fillOrder

/-- FREE VALUE: byte `i` of STAGE after the reset whose number is the first argument
(R48: STAGE is unspecified after reset; I11: any value). See notes/assumptions/4.md. -/
opaque Config.freeStage : Nat → Nat → Byte

/-- STAGE_BYTES, the size of the Transient Command Buffer (R8). -/
abbrev stageBytes : Nat := 128

/-- ARGBUF_BYTES, the number of host-writable argument registers (R8). -/
abbrev argbufBytes : Nat := 128

/-- MAX_ARGS, the largest argument count of one command (R8). -/
abbrev maxArgs : Nat := 127

/-- The longest descriptor: opcode, count byte, 127 arguments, delay byte (R91). -/
abbrev maxDescriptor : Nat := 130

end Sys2Proof
end

