-- ==== Sys2Proof/Syntax.lean ====
section
/-! DEFINITION. The instructions of LCDSEQ, one constructor per row of spec/opcode_table.json: the three descriptors of the
sequence language (spec/30_encoding.md R84) and the CTRL writes of the host (R80, R81, R95). -/

namespace Sys2Proof

/-- One row of the opcode table each. In the CTRL rows `e` is ERRCLR (bit 30, applied before OP), `x` the reserved bits
[29:4], which no rule reads (R81), and `r` the OP bits a reserved row leaves open. -/
inductive Instr where
  /-- END, the one-byte sentinel (R85, R124). -/
  | endSeq
  /-- CMD: frame `opc` and `args` (R122). -/
  | cmd (opc : Byte) (args : List Byte)
  /-- CMDD: frame `opc` and `args`, then wait `ms` ticks (R123). -/
  | cmdd (opc : Byte) (args : List Byte) (ms : Byte)
  /-- NOP, OP = 0 (R113). -/
  | nop (e : Bool) (x : BitVec 26)
  /-- SEND_CMD, OP = 1 (R114). -/
  | sendCmd (e : Bool) (x : BitVec 26)
  /-- RUN_SEQ, OP = 2 (R120). -/
  | runSeq (e : Bool) (x : BitVec 26)
  /-- CONFIGURE, OP = 3 (R140). -/
  | configure (e : Bool) (x : BitVec 26)
  /-- SET_WINDOW, OP = 4 (R142). -/
  | setWindow (e : Bool) (x : BitVec 26)
  /-- FILL, OP = 5 (R160). -/
  | fill (e : Bool) (x : BitVec 26)
  /-- RESERVED_OP_6_7, OP = 6 + r (R187). -/
  | reservedOp67 (e : Bool) (x : BitVec 26) (r : BitVec 1)
  /-- RESERVED_OP_8_15, OP = 8 + r (R187). -/
  | reservedOp815 (e : Bool) (x : BitVec 26) (r : BitVec 3)
  /-- SRST, bit 31 set; the other bits `x` are ignored (R22, R221). -/
  | srst (x : BitVec 31)
  /-- ERRCLR, bit 30 set and bit 31 clear: clear the error flags, then perform `op` (R22, R189). -/
  | errclr (x : BitVec 26) (op : BitVec 4)
deriving DecidableEq, Repr

end Sys2Proof
end

