-- ==== Sys2Proof/WellFormed.lean ====
section
/-! DEFINITION. Which instructions some word encodes, and as which constructor (spec/30_encoding.md R84, R87, R92). Two rows
of the table share words: NOP with ERRCLR set is the word of ERRCLR with OP = 0, and ERRCLR with OP = k > 0 is the word of
operation k with ERRCLR set. The decoder names the first ERRCLR and the second operation k (notes/assumptions/8.md); the
other two spellings have their meaning in `exec` all the same, but no word decodes to them. -/

namespace Sys2Proof

/-- The check of a descriptor's operands: opcode 0 is the sentinel's (R85), and the count has 7 bits (R83). -/
def descriptorOk (opc : Byte) (args : List Byte) : Bool :=
  opc != 0#8 && args.length ≤ maxArgs

/-- `i` is what some word decodes to. -/
def Instr.wellFormed : Instr → Bool
  | .endSeq => true
  | .cmd opc args => descriptorOk opc args
  | .cmdd opc args _ => descriptorOk opc args
  | .nop e _ => !e
  | .sendCmd _ _ => true
  | .runSeq _ _ => true
  | .configure _ _ => true
  | .setWindow _ _ => true
  | .fill _ _ => true
  | .reservedOp67 _ _ _ => true
  | .reservedOp815 _ _ _ => true
  | .srst _ => true
  | .errclr _ op => op == 0#4

end Sys2Proof
end

