-- ==== Sys2Proof/Decode.lean ====
section
/-! DEFINITION. The decoder of the two encoded languages of spec/30_encoding.md, total on any words, and the encoder written
from the same tables: CTRL writes (R80, R81) and Command Descriptors (R82 to R87). -/

namespace Sys2Proof

/-- The words of one instruction: a CTRL write, or the bytes of a descriptor in the order they lie in SEQMEM (R95). -/
inductive Words where
  | ctrl (w : Word)
  | descriptor (bs : List Byte)
deriving DecidableEq, Repr

/-- Why bytes are no whole descriptor. Every byte value is legal (R88), so a rejection is always a byte that is not there:
the three cases of SEQ_OVERRUN (R182). -/
inductive DecodeError where
  /-- There is no opcode byte, R182 case (1). -/
  | opcodeOutside
  /-- The opcode is not 0 and there is no argLenAndFlags byte, R182 case (2). -/
  | lenFlagsOutside
  /-- An argument byte or the delay byte is missing, R182 case (3). -/
  | bodyOutside
deriving DecidableEq, Repr

/-- What decoding a descriptor answers: the instruction and the bytes after it, or why there is none. -/
inductive Decoded where
  | accepted (i : Instr) (rest : List Byte)
  | rejected (e : DecodeError)
deriving DecidableEq, Repr

/-- N, the argument count: bits 6:0 of argLenAndFlags (R83). -/
def lenFlagsCount (lf : Byte) : Nat := (lf.extractLsb' 0 7).toNat

/-- D, the trailing-delay flag: bit 7 of argLenAndFlags (R83). -/
def lenFlagsDelay (lf : Byte) : Bool := lf.getLsbD 7

/-- The descriptor after its opcode and argLenAndFlags byte (R84). -/
def decodeBody (opc lf : Byte) (tail : List Byte) : Decoded :=
  let n := lenFlagsCount lf
  let args := tail.take n
  if args.length < n then .rejected .bodyOutside
  else if lenFlagsDelay lf then
    match tail.drop n with
    | [] => .rejected .bodyOutside
    | ms :: rest => .accepted (.cmdd opc args ms) rest
  else .accepted (.cmd opc args) (tail.drop n)

/-- Decode the descriptor that begins `bs` (R87). END is tested first, and its second byte is not read. -/
def decodeDescriptor (bs : List Byte) : Decoded :=
  match bs with
  | [] => .rejected .opcodeOutside
  | opc :: tail =>
    if opc = 0#8 then .accepted .endSeq tail
    else
      match tail with
      | [] => .rejected .lenFlagsOutside
      | lf :: body => decodeBody opc lf body

/-- Decode a CTRL write: SRST before all else, then OP (R22, R80, R81). Every 32-bit value is some row of the table. -/
def decodeCtrl (w : Word) : Instr :=
  let e := w.getLsbD 30
  let x := w.extractLsb' 4 26
  if w.getLsbD 31 then .srst (w.extractLsb' 0 31)
  else
    match (w.extractLsb' 0 4).toNat with
    | 0 => if e then .errclr x 0#4 else .nop false x
    | 1 => .sendCmd e x
    | 2 => .runSeq e x
    | 3 => .configure e x
    | 4 => .setWindow e x
    | 5 => .fill e x
    | 6 => .reservedOp67 e x 0#1
    | 7 => .reservedOp67 e x 1#1
    | _ => .reservedOp815 e x (w.extractLsb' 0 3)

/-- Decode either language. -/
def decode : Words → Decoded
  | .ctrl w => .accepted (decodeCtrl w) []
  | .descriptor bs => decodeDescriptor bs

/-- The CTRL word with SRST = 0 (R81). -/
def ctrlWord (e : Bool) (x : BitVec 26) (op : BitVec 4) : Word :=
  0#1 ++ (BitVec.ofBool e ++ (x ++ op))

/-- The argLenAndFlags byte (R83). -/
def lenFlagsByte (d : Bool) (n : Nat) : Byte := BitVec.ofBool d ++ BitVec.ofNat 7 n

/-- The words of an instruction, from the tables of R80, R81, R83 and R84. -/
def encode : Instr → Words
  | .endSeq => .descriptor [0#8]
  | .cmd opc args => .descriptor (opc :: lenFlagsByte false args.length :: args)
  | .cmdd opc args ms => .descriptor (opc :: lenFlagsByte true args.length :: (args ++ [ms]))
  | .nop e x => .ctrl (ctrlWord e x 0#4)
  | .sendCmd e x => .ctrl (ctrlWord e x 1#4)
  | .runSeq e x => .ctrl (ctrlWord e x 2#4)
  | .configure e x => .ctrl (ctrlWord e x 3#4)
  | .setWindow e x => .ctrl (ctrlWord e x 4#4)
  | .fill e x => .ctrl (ctrlWord e x 5#4)
  | .reservedOp67 e x r => .ctrl (ctrlWord e x (3#3 ++ r))
  | .reservedOp815 e x r => .ctrl (ctrlWord e x (1#1 ++ r))
  | .srst x => .ctrl (1#1 ++ x)
  | .errclr x op => .ctrl (ctrlWord true x op)

/-- The first two bytes of a descriptor whose header the table numbers as H = (SEQ[p] << 8) | SEQ[p+1] (R95): the first byte
is the header's high half. -/
def headerBytes (w : Nat) : List Byte := [BitVec.ofNat 8 (w / 256), BitVec.ofNat 8 w]

/-- The instruction the decoder reads from a table row's word: 16 bits are a descriptor's header, which zeros follow, as many
as the longest descriptor has (R91), and 32 bits are a CTRL write. -/
def decodeTableWord (nbits w : Nat) : Option Instr :=
  if nbits = 16 then
    match decodeDescriptor (headerBytes w ++ List.replicate (maxDescriptor - 2) 0#8) with
    | .accepted i _ => some i
    | .rejected _ => none
  else if nbits = 32 then some (decodeCtrl (BitVec.ofNat 32 w))
  else none

end Sys2Proof
end

