-- ==== Sys2Proof/Machine/Memory.lean ====
section
/-! DEFINITION. SEQMEM, the only memory LCDSEQ reads (spec/20_memory.md R61, R62): its contents as a list of (offset, byte)
pairs in one canonical form. SEQMEM is read-only, so there is a load (the instance's SEQ_IMAGE) and a read, and no write. -/

namespace Sys2Proof.Machine

/-- The bytes of SEQMEM that are not `unlisted`, offsets strictly rising. -/
abbrev Memory := List Host.Cell

namespace Memory

/-- What an offset that is not listed reads as. Any SEQ_IMAGE is one canonical list, so this is a way of writing an image
down, and no choice about its contents (notes/assumptions/5.md). -/
def unlisted : Byte := 0#8

/-- The byte at offset `a` (R61 `MemRead(a, 1)`; its callers ask only for `a` < SEQ_BYTES). -/
def read : Memory → Nat → Byte
  | [], _ => unlisted
  | (b, v) :: rest, a => if a = b then v else read rest a

/-- The `n` bytes from offset `a` on. -/
def readBytes (m : Memory) (a : Nat) : Nat → List Byte
  | 0 => []
  | n + 1 => m.read a :: readBytes m (a + 1) n

/-- The memory that holds the bytes `bs` from offset `a` on, and nothing else. -/
def load : Nat → List Byte → Memory
  | _, [] => []
  | a, b :: bs => if b = unlisted then load (a + 1) bs else (a, b) :: load (a + 1) bs

/-- Offsets rise strictly from `lo` on and stay below `n`, and no listed byte is `unlisted`. -/
def canonicalFrom (n : Nat) : Nat → Memory → Bool
  | _, [] => true
  | lo, (a, v) :: rest => lo ≤ a && a < n && v != unlisted && canonicalFrom n (a + 1) rest

/-- The canonical form of a SEQMEM of `n` bytes. -/
def wf (n : Nat) (m : Memory) : Bool := canonicalFrom n 0 m

end Memory

end Sys2Proof.Machine
end

