-- ==== Sys2Proof/Machine/State.lean ====
section
/-! DEFINITION. The state of LCDSEQ as plain data (spec/10_state.md R49), the reasons a run can stop, and the state right
after power-on (R48, R222). -/

namespace Sys2Proof.Machine

/-- ENG (R37). -/
inductive Eng where
  | idle
  | busy
  | fault
deriving DecidableEq, Repr, Inhabited

/-- An event of the LCD interface (R12, R44). -/
inductive Event where
  | cs (v : Level)
  | dc (v : Level)
  | tx (b : Byte)
  | wait (n : Byte)
  | rst
deriving DecidableEq, Repr

/-- An action of PEND (R13), and `seq p`, which stands for the actions ExpandSeq(p) of R121 that the engine has not yet
written out (R39; notes/assumptions/1.md). -/
inductive Action where
  | ev (e : Event)
  | hold (n : Byte)
  | setcur (p : SeqPtr)
  | fault (c : BitVec 4) (p : SeqPtr)
  | done
  | seq (p : SeqPtr)
deriving DecidableEq, Repr

/-- One turn of one of the agents that R191 serialises. -/
inductive Turn where
  /-- A host write of `bytes` bytes of value `v` at window offset `off`. -/
  | write (off : BitVec 10) (bytes : Nat) (v : Word)
  /-- A host read of `bytes` bytes at window offset `off`. -/
  | read (off : BitVec 10) (bytes : Nat)
  /-- The engine performs its next action, if it has a step. -/
  | engine
  /-- The time base delivers a tick. -/
  | tick
  /-- RST_N is asserted. -/
  | rstN
deriving DecidableEq, Repr

/-- A register file of 128 bytes: ARGBUF (R34), STAGE (R38). -/
abbrev Buffer := Vector Byte 128

/-- The state. Each register is as wide as its fields, so that its reserved bits read 0 and ignore writes (R21). -/
structure State where
  /-- The instance's parameters (R8). -/
  cfg : Params
  /-- SEQMEM (R61). -/
  seqmem : Memory
  /-- ENG (R37). -/
  eng : Eng
  /-- PEND (R43), the tail of a sequence held as `Action.seq`. -/
  pend : List Action
  /-- SP, the interpreter's program counter (R25). -/
  sp : SeqPtr
  /-- STATUS.REJECT (R23). -/
  reject : Bool
  /-- STATUS.BADOP (R23). -/
  badop : Bool
  /-- STATUS.CAUSE (R23, R181). -/
  cause : BitVec 4
  /-- SEQ_START.START (R24). -/
  seqStart : BitVec 16
  /-- SEQ_CUR.CUR (R25). -/
  seqCur : SeqPtr
  /-- FAULT_PTR.PTR (R26). -/
  faultPtr : SeqPtr
  /-- CMD: ARGLEN in bits 14:8, OPCODE in bits 7:0 (R27). -/
  cmd : BitVec 15
  /-- MADCTL (R28). -/
  madctl : Byte
  /-- FRMCTR (R29). -/
  frmctr : BitVec 24
  /-- WIN_X (R30). -/
  winX : BitVec 16
  /-- WIN_Y (R31). -/
  winY : BitVec 16
  /-- WIN_W (R32). -/
  winW : BitVec 16
  /-- WIN_H (R33). -/
  winH : BitVec 16
  /-- ARGBUF[0..127] (R34). -/
  argbuf : Buffer
  /-- STAGE, the Transient Command Buffer (R38). -/
  stage : Buffer
  /-- CS_N (R40). -/
  csN : Level
  /-- DC (R40). -/
  dc : Level
  /-- TR, the trace (R44). -/
  tr : List Event
  /-- MODEL'S OWN: the turns of the agents still to come, the next one first (notes/assumptions/2.md). -/
  turns : List Turn
  /-- MODEL'S OWN: the word the last host read gave back (notes/assumptions/7.md). -/
  rdata : Word
  /-- MODEL'S OWN: how many resets have drawn a free STAGE (notes/assumptions/4.md). -/
  draws : Nat
deriving DecidableEq, Repr

/-- Why the machine stops with a fault. LCDSEQ's own fault, SEQ_OVERRUN, is a next state and not one of these (R183). -/
inductive Fault where
  /-- Raised by an engine turn when ENG is BUSY and PEND is empty, which R43 says cannot be. Safe: no run reaches it, and
  a claim about a run that stops here cannot be proved. -/
  | emptyPending
deriving DecidableEq, Repr

/-- Why a step has no meaning. -/
inductive Refusal where
  /-- Raised by an arm of `exec` for an instruction that has no meaning yet. Safe: nothing follows from it. -/
  | notModelled (mnemonic : String)
  /-- Raised by a host access that is not a 32-bit access at a multiple of 4: it has no meaning in the spec, and a model
  refuses it (R67, spec/93_implementation_defined.md I5). Safe: nothing follows from it. -/
  | hostAccessForm
deriving DecidableEq, Repr

/-- The reset value of every piece of state (R48), TR empty. STAGE is the free value numbered `draw`. -/
def State.initial (cfg : Params) (seqmem : Memory) (draw : Nat) : State where
  cfg := cfg
  seqmem := seqmem
  eng := .idle
  pend := []
  sp := 0#17
  reject := false
  badop := false
  cause := 0#4
  seqStart := 0#16
  seqCur := 0#17
  faultPtr := 0#17
  cmd := 0#15
  madctl := 0#8
  frmctr := 0#24
  winX := 0#16
  winY := 0#16
  winW := 0#16
  winH := 0#16
  argbuf := Vector.replicate 128 0#8
  stage := Vector.ofFn fun i => Config.freeStage draw i.val
  csN := .high
  dc := .high
  tr := []
  turns := []
  rdata := 0#32
  draws := draw + 1

/-- SEQ_IMAGE of the chip behind `State.reset` (R8). -/
def chipImage : Memory := Memory.load 0 ((List.range Config.chip.seqBytes).map Config.seqImage)

/-- The state right after power-on (R222): the values of R48, TR empty, SEQMEM = SEQ_IMAGE. -/
def State.reset : State := State.initial Config.chip chipImage 0

end Sys2Proof.Machine
end

