-- ==== Sys2Proof/Machine/Flags.lean ====
section
/-! DEFINITION. The status bits of LCDSEQ (spec/10_state.md R23, R46). LCDSEQ has no arithmetic flag: the only flags are the
STATUS fields, of which BUSY and FAULT are computed from ENG (R23; notes/assumptions/15.md). -/

namespace Sys2Proof.Machine

/-- STATUS.BUSY: 1 exactly while ENG = BUSY (R23). -/
def State.busyBit (s : State) : Bool := s.eng == .busy

/-- STATUS.FAULT: 1 exactly while ENG = FAULT (R23). -/
def State.faultBit (s : State) : Bool := s.eng == .fault

/-- STATUS as the host reads it: BUSY[0], FAULT[1], REJECT[2], BADOP[3], CAUSE[11:8], the rest 0 (R21, R23). -/
def State.statusWord (s : State) : Word :=
  0#20 ++ (s.cause ++ (0#4 ++ (BitVec.ofBool s.badop ++ (BitVec.ofBool s.reject ++
    (BitVec.ofBool s.faultBit ++ BitVec.ofBool s.busyBit)))))

/-- A start or an SRST is refused: STATUS.REJECT <- 1, nothing else changes (R186). -/
def setReject (s : State) : State := { s with reject := true }

/-- A reserved OP is written: STATUS.BADOP <- 1, nothing else changes (R187). -/
def setBadop (s : State) : State := { s with badop := true }

/-- ERRCLR: REJECT and BADOP are cleared (R22 step 2). -/
def clearErrors (s : State) : State := { s with reject := false, badop := false }

/-- The ERRCLR bit `e` of a CTRL write, applied before its OP (R22, R189). -/
def applyErrclr (e : Bool) (s : State) : State := if e then clearErrors s else s

/-- The cause code SEQ_OVERRUN (R181). -/
def seqOverrun : BitVec 4 := 1#4

end Sys2Proof.Machine
end

