-- ==== Sys2Proof/Machine/Operands.lean ====
section
/-! DEFINITION. The operands of every operation (spec/10_state.md R39), the byte order in which they go out
(spec/20_memory.md R64), the window arithmetic (spec/41_configuration.md R143) and the pixel pattern
(spec/42_pixel_stream.md R161). All values are unsigned (R10). -/

namespace Sys2Proof.Machine

/-- v[15:8] then v[7:0] (R64 (a), (b)). -/
def bytes16 (v : BitVec 16) : List Byte := [v.extractLsb' 8 8, v.extractLsb' 0 8]

/-- CMD.OPCODE (R27). -/
def State.cmdOpcode (s : State) : Byte := s.cmd.extractLsb' 0 8

/-- CMD.ARGLEN (R27). -/
def State.cmdArglen (s : State) : Nat := (s.cmd.extractLsb' 8 7).toNat

/-- The bytes of SEND_CMD: the opcode and ARGBUF[0..N-1] (R114). -/
def sendCmdBytes (s : State) : List Byte := s.cmdOpcode :: s.argbuf.toList.take s.cmdArglen

/-- The bytes of the orientation/mode-set command (R90, R140). -/
def madctlBytes (s : State) : List Byte := [s.cfg.opcMadctl, s.madctl]

/-- The bytes of the frame-rate-control command, FRMFRAME(F): the low byte is sent only if it is not 0xFF
(R64 (c), R141). -/
def frmctrBytes (s : State) : List Byte :=
  let f := s.frmctr
  if f.extractLsb' 0 8 = 0xFF#8 then [s.cfg.opcFrmctr1, f.extractLsb' 16 8, f.extractLsb' 8 8]
  else [s.cfg.opcFrmctr1, f.extractLsb' 16 8, f.extractLsb' 8 8, f.extractLsb' 0 8]

/-- The inclusive end of an axis, (start + extent - 1) mod 2^16 (R143). -/
def windowEnd (start extent : BitVec 16) : BitVec 16 := start + extent - 1#16

/-- The bytes of the row-axis window command, which carries x (R90, R142). -/
def rowsetBytes (s : State) : List Byte :=
  s.cfg.opcRowset :: (bytes16 s.winX ++ bytes16 (windowEnd s.winX s.winW))

/-- The bytes of the column-axis window command, which carries y (R90, R142). -/
def colsetBytes (s : State) : List Byte :=
  s.cfg.opcColset :: (bytes16 s.winY ++ bytes16 (windowEnd s.winY s.winH))

/-- PAT(i, j) = (2 * i) mod 2^16; the row `j` has no part in it (R161). -/
def pattern (i _j : Nat) : BitVec 16 := BitVec.ofNat 16 (2 * i)

/-- The data bytes of FILL for `w` columns and `h` rows, in the order FILL_ORDER selects (R160, R162). -/
def pixelBytes (o : FillOrder) (w h : Nat) : List Byte :=
  match o with
  | .columnMajor => (List.range w).flatMap fun i => (List.range h).flatMap fun j => bytes16 (pattern i j)
  | .rowMajor => (List.range h).flatMap fun j => (List.range w).flatMap fun i => bytes16 (pattern i j)

/-- The data bytes of the FILL that a state starts (R160: W = WIN_W, H = WIN_H). -/
def fillBytes (s : State) : List Byte := pixelBytes s.cfg.fillOrder s.winW.toNat s.winH.toNat

/-- The start of a sequence: SEQ_START.START, zero-extended to a pointer (R25, R120). -/
def seqEntry (s : State) : SeqPtr := s.seqStart.setWidth 17

end Sys2Proof.Machine
end

