-- ==== Sys2Proof/Machine/Ops.lean ====
section
/-! DEFINITION. The operations several instructions share: the framing primitive (spec/40_command_engine.md R100), starting
an operation (R110), one engine action (R111), a tick (spec/10_state.md R42), taking a fault (spec/60_exceptions.md R183),
the reset action that leaves it (R185, spec/70_reset_and_hazards.md R221), and the descriptor fetch (R121). -/

namespace Sys2Proof.Machine

/-! ### The framing primitive -/

/-- Step 1 of FRAME: `bs` is copied into STAGE[0..len-1]; the rest of STAGE stays (R38, R100). -/
def stageCopy (st : Buffer) (bs : List Byte) : Buffer := Vector.ofFn fun i => bs.getD i.val st[i]

/-- STAGE[i] (R11). STAGE has 128 bytes, and no frame is longer (R38). -/
def stageByte (st : Buffer) (i : Nat) : Byte := st.toList.getD i 0#8

/-- FRAME(bs): what it leaves in STAGE, and the actions it returns, which transmit from STAGE (R100). -/
def frame (st : Buffer) (bs : List Byte) : Buffer × List Action :=
  let st' := stageCopy st bs
  (st', [.ev (.cs .low), .ev (.dc .low), .ev (.tx (stageByte st' 0)), .ev (.dc .high)] ++
    ((List.range (bs.length - 1)).map fun i => .ev (.tx (stageByte st' (i + 1)))) ++ [.ev (.cs .high)])

/-- Two frames, the first one before the second (R140, R142). -/
def frameTwice (st : Buffer) (bs₁ bs₂ : List Byte) : Buffer × List Action :=
  let a := frame st bs₁
  let b := frame a.1 bs₂
  (b.1, a.2 ++ b.2)

/-! ### Starting an operation -/

/-- An accepted start: PEND takes the expansion, closed by `done`, and ENG becomes BUSY, in one step (R110). -/
def accept (x : Buffer × List Action) (s : State) : State :=
  { s with eng := .busy, stage := x.1, pend := x.2 ++ [.done] }

/-- A start is accepted when ENG is IDLE; otherwise it is refused and never queued (R110, R186). -/
def startWhenIdle (accepted : State → State) (s : State) : State :=
  if s.eng = .idle then accepted s else setReject s

/-! ### Reset and fault -/

/-- The reset action of RST_N and of an accepted SRST: every register and internal state takes its reset value, and RST is
appended to TR. SEQMEM and the parameters stay (R48, R221); so do the fields that are the model's own. -/
def resetAction (s : State) : State :=
  { State.initial s.cfg s.seqmem s.draws with
    tr := s.tr ++ [.rst], turns := s.turns, rdata := s.rdata }

/-- Taking a fault of cause `c` at pointer `p`: ENG becomes FAULT (so BUSY = 0 and FAULT = 1), CAUSE, FAULT_PTR, SEQ_CUR and
SP are written, PEND is emptied, and no event is emitted (R183). Only `resetAction` leaves FAULT (R185). -/
def takeFault (c : BitVec 4) (p : SeqPtr) (s : State) : State :=
  { s with eng := .fault, cause := c, faultPtr := p, seqCur := p, sp := p, pend := [] }

/-! ### The engine and the time base -/

/-- Emit(e): append `e` to TR and drive the line it names (R12, R44, R111). -/
def emit (e : Event) (s : State) : State :=
  match e with
  | .cs v => { s with tr := s.tr ++ [e], csN := v }
  | .dc v => { s with tr := s.tr ++ [e], dc := v }
  | .tx _ => { s with tr := s.tr ++ [e] }
  | .wait _ => { s with tr := s.tr ++ [e] }
  | .rst => { s with tr := s.tr ++ [e], csN := .high, dc := .high }

/-- `setcur(p)`: SP <- p and SEQ_CUR <- p (R25, R111). -/
def setCur (p : SeqPtr) (s : State) : State := { s with sp := p, seqCur := p }

/-- The engine performs the head action `a` of PEND, `rest` being the others (R111). For `seq p` this is arriving at the
descriptor at `p`, which `runSeqHead` then fetches. -/
def perform (a : Action) (rest : List Action) (s : State) : State :=
  match a with
  | .ev e => emit e { s with pend := rest }
  | .hold n => if n = 0#8 then { s with pend := rest } else s
  | .setcur p => setCur p { s with pend := rest }
  | .fault c p => takeFault c p s
  | .done => { s with eng := .idle, pend := [] }
  | .seq p => { s with sp := p, pend := rest }

/-- DLY, the delay counter: the count of the hold at the head of PEND, 0 when there is none (R42, R49, R193). -/
def State.dly (s : State) : Byte :=
  match s.pend with
  | .hold n :: _ => n
  | _ => 0#8

/-- A TICK: it counts down the hold at the head of PEND; at any other time it has no effect (R42). -/
def tickAction (s : State) : State :=
  match s.pend with
  | .hold n :: rest => if n = 0#8 then s else { s with pend := .hold (n - 1#8) :: rest }
  | _ => s

/-- The engine is stopped in a wait (R42). -/
def State.waiting (s : State) : Bool := s.eng == .busy && s.dly != 0#8

/-! ### The sequence interpreter -/

/-- The bytes of SEQMEM from SP on that a descriptor could take: none at or past SEQ_BYTES (R61, R121). -/
def fetchBytes (s : State) : List Byte :=
  s.seqmem.readBytes s.sp.toNat (min maxDescriptor (s.cfg.seqBytes - s.sp.toNat))

/-- The descriptor at SP (R87, R121). -/
def fetchDescriptor (s : State) : Decoded := decodeDescriptor (fetchBytes s)

/-- The descriptor at SP does not fit in SEQMEM: `[setcur(p), fault(SEQ_OVERRUN, p)]`, before any of its events (R121,
R182). -/
def overrunAtSp (s : State) : State :=
  { setCur s.sp s with pend := .fault seqOverrun s.sp :: s.pend }

/-- A descriptor of `len` bytes at SP that frames `bs` and then does `tail`; the next descriptor is at SP + `len`
(R121, R122, R123). -/
def runDescriptor (len : Nat) (bs : List Byte) (tail : List Action) (s : State) : State :=
  if s.sp.toNat + len ≤ s.cfg.seqBytes then
    let f := frame s.stage bs
    { setCur s.sp s with
      stage := f.1, pend := f.2 ++ tail ++ .seq (s.sp + BitVec.ofNat 17 len) :: s.pend }
  else overrunAtSp s

end Sys2Proof.Machine
end

