-- ==== Sys2Proof/Machine/Operations.lean ====
section
/-! DEFINITION. What each value of CTRL.OP does (spec/30_encoding.md R80): the five operations the host can start, NOP and
the reserved values. Each start latches its operands and computes its whole expansion in the step of the CTRL write
(spec/10_state.md R39, spec/40_command_engine.md R110). -/

namespace Sys2Proof.Machine

/-- SEND_CMD accepted: `FRAME([OPC] ++ ARG[0..N-1]) ++ [done]` (R114). -/
def acceptSendCmd (s : State) : State := accept (frame s.stage (sendCmdBytes s)) s

/-- RUN_SEQ accepted: `ExpandSeq(S)`, and SP is set to SEQ_START (R25, R120). -/
def acceptRunSeq (s : State) : State :=
  { s with eng := .busy, sp := seqEntry s, pend := [.seq (seqEntry s)] }

/-- CONFIGURE accepted: the orientation frame, the frame-rate frame, `done` (R140). -/
def acceptConfigure (s : State) : State := accept (frameTwice s.stage (madctlBytes s) (frmctrBytes s)) s

/-- SET_WINDOW accepted: the row-axis frame, the column-axis frame, `done` (R142). -/
def acceptSetWindow (s : State) : State := accept (frameTwice s.stage (rowsetBytes s) (colsetBytes s)) s

/-- FILL accepted: the memory-write opcode and all pixels in one chip-select window, then `done`. FILL does not use FRAME,
so STAGE stays (R160, spec/90_conflicts.md C1). -/
def acceptFill (s : State) : State :=
  accept (s.stage, [.ev (.cs .low), .ev (.dc .low), .ev (.tx s.cfg.opcRamwr), .ev (.dc .high)] ++
    ((fillBytes s).map fun b => .ev (.tx b)) ++ [.ev (.cs .high)]) s

/-- What OP does, after SRST and ERRCLR (R80, R110, R113, R187). -/
def performOp (op : BitVec 4) (s : State) : State :=
  match op.toNat with
  | 0 => s
  | 1 => startWhenIdle acceptSendCmd s
  | 2 => startWhenIdle acceptRunSeq s
  | 3 => startWhenIdle acceptConfigure s
  | 4 => startWhenIdle acceptSetWindow s
  | 5 => startWhenIdle acceptFill s
  | _ => setBadop s

end Sys2Proof.Machine
end

