-- ==== Sys2Proof/Machine/Configuration.lean ====
section
/-! DEFINITION. The meanings of the CTRL writes CONFIGURE and SET_WINDOW (spec/41_configuration.md R140, R142). -/

namespace Sys2Proof.Machine

/-- CONFIGURE (R140, R141). -/
def execConfigure (e : Bool) (_x : BitVec 26) (s : State) : Host.Outcome State Fault Refusal :=
  .next (startWhenIdle acceptConfigure (applyErrclr e s))

/-- SET_WINDOW (R142, R143). -/
def execSetWindow (e : Bool) (_x : BitVec 26) (s : State) : Host.Outcome State Fault Refusal :=
  .next (startWhenIdle acceptSetWindow (applyErrclr e s))

end Sys2Proof.Machine
end

