-- ==== Sys2Proof/Machine/Control.lean ====
section
/-! DEFINITION. The meanings of the CTRL writes SRST and ERRCLR (spec/10_state.md R22, spec/60_exceptions.md R186, R189,
spec/70_reset_and_hazards.md R221). -/

namespace Sys2Proof.Machine

/-- SRST (R22, R221): the reset action unless ENG is BUSY, and then REJECT (R186); the other bits are ignored. -/
def execSrst (_x : BitVec 31) (s : State) : Host.Outcome State Fault Refusal :=
  .next (if s.eng = .busy then setReject s else resetAction s)

/-- ERRCLR (R22, R189): REJECT and BADOP are cleared, then OP is performed. -/
def execErrclr (_x : BitVec 26) (op : BitVec 4) (s : State) : Host.Outcome State Fault Refusal :=
  .next (performOp op (clearErrors s))

end Sys2Proof.Machine
end

