-- ==== Sys2Proof/Machine/Descriptors.lean ====
section
/-! DEFINITION. The meanings of the descriptors (spec/40_command_engine.md R121 to R124). The engine runs one when the head of
PEND is `seq p`: SP is then `p`, and the meaning puts the descriptor's actions at the front of PEND. -/

namespace Sys2Proof.Machine

/-- END (R124): `[setcur(p), done]`. -/
def execEndSeq (s : State) : Host.Outcome State Fault Refusal :=
  .next { setCur s.sp s with pend := .done :: s.pend }

/-- CMD (R122): `[setcur(p)] ++ FRAME([OPC, ARG[0..N-1]])`, and the next descriptor is at p + 2 + N. -/
def execCmd (opc : Byte) (args : List Byte) (s : State) : Host.Outcome State Fault Refusal :=
  .next (runDescriptor (2 + args.length) (opc :: args) [] s)

/-- CMDD (R123): as CMD, then `[ev(WAIT(MS)), hold(MS)]`, and the next descriptor is at p + 3 + N. -/
def execCmdd (opc : Byte) (args : List Byte) (ms : Byte) (s : State) : Host.Outcome State Fault Refusal :=
  .next (runDescriptor (3 + args.length) (opc :: args) [.ev (.wait ms), .hold ms] s)

end Sys2Proof.Machine
end

