-- ==== Sys2Proof/Machine/HostOps.lean ====
section
/-! DEFINITION. The meanings of the CTRL writes NOP, SEND_CMD, RUN_SEQ and of the reserved OP values
(spec/40_command_engine.md R113, R114, R120, spec/60_exceptions.md R187). ERRCLR is applied first (spec/10_state.md R22);
the reserved bits `x` have no effect (R81). -/

namespace Sys2Proof.Machine

/-- NOP (R113): nothing but the ERRCLR of the same write; never refused. -/
def execNop (e : Bool) (_x : BitVec 26) (s : State) : Host.Outcome State Fault Refusal :=
  .next (applyErrclr e s)

/-- SEND_CMD (R114). -/
def execSendCmd (e : Bool) (_x : BitVec 26) (s : State) : Host.Outcome State Fault Refusal :=
  .next (startWhenIdle acceptSendCmd (applyErrclr e s))

/-- RUN_SEQ (R120). -/
def execRunSeq (e : Bool) (_x : BitVec 26) (s : State) : Host.Outcome State Fault Refusal :=
  .next (startWhenIdle acceptRunSeq (applyErrclr e s))

/-- RESERVED_OP_6_7 (R187): BADOP is set and nothing starts, whatever ENG is. -/
def execReservedOp67 (e : Bool) (_x : BitVec 26) (_r : BitVec 1) (s : State) : Host.Outcome State Fault Refusal :=
  .next (setBadop (applyErrclr e s))

/-- RESERVED_OP_8_15 (R187): BADOP is set and nothing starts, whatever ENG is. -/
def execReservedOp815 (e : Bool) (_x : BitVec 26) (_r : BitVec 3) (s : State) : Host.Outcome State Fault Refusal :=
  .next (setBadop (applyErrclr e s))

end Sys2Proof.Machine
end

