-- ==== Sys2Proof/Machine/PixelStream.lean ====
section
/-! DEFINITION. The meaning of the CTRL write FILL (spec/42_pixel_stream.md R160). -/

namespace Sys2Proof.Machine

/-- FILL (R160 to R164). -/
def execFill (e : Bool) (_x : BitVec 26) (s : State) : Host.Outcome State Fault Refusal :=
  .next (startWhenIdle acceptFill (applyErrclr e s))

end Sys2Proof.Machine
end

