-- ==== Sys2Proof/Machine/Dispatch.lean ====
section
/-! DEFINITION. One arm per instruction, each one call of its meaning. -/

namespace Sys2Proof.Machine

def exec (i : Instr) (s : State) : Host.Outcome State Fault Refusal :=
  match i with
  | .endSeq => Sys2Proof.Machine.execEndSeq s
  | .cmd opc args => Sys2Proof.Machine.execCmd opc args s
  | .cmdd opc args ms => Sys2Proof.Machine.execCmdd opc args ms s
  | .nop e x => Sys2Proof.Machine.execNop e x s
  | .sendCmd e x => Sys2Proof.Machine.execSendCmd e x s
  | .runSeq e x => Sys2Proof.Machine.execRunSeq e x s
  | .configure e x => Sys2Proof.Machine.execConfigure e x s
  | .setWindow e x => Sys2Proof.Machine.execSetWindow e x s
  | .fill e x => Sys2Proof.Machine.execFill e x s
  | .reservedOp67 e x r => Sys2Proof.Machine.execReservedOp67 e x r s
  | .reservedOp815 e x r => Sys2Proof.Machine.execReservedOp815 e x r s
  | .srst x => Sys2Proof.Machine.execSrst x s
  | .errclr x op => Sys2Proof.Machine.execErrclr x op s

end Sys2Proof.Machine
end

