-- ==== Sys2Proof/Machine/HostPort.lean ====
section
/-! DEFINITION. The host register window (spec/10_state.md R21, spec/20_memory.md R60, R67, R69): what a read gives back, what
a write to a register other than CTRL stores, and which accesses have a meaning. -/

namespace Sys2Proof.Machine

/-- The access is a 32-bit access at a multiple of 4 (R67 (b)). -/
def accessOk (off : BitVec 10) (bytes : Nat) : Bool := bytes == 4 && off.extractLsb' 0 2 == 0#2

/-- The offset is one of ARGBUF's, 0x200 to 0x3FC (R34). -/
def isArgbuf (off : BitVec 10) : Bool := off.getLsbD 9

/-- k of ARGBUF[k] at offset 0x200 + 4k (R34). -/
def argbufIndex (off : BitVec 10) : Fin 128 := (off.extractLsb' 2 7).toFin

/-- What a host read of the register at `off` returns; reserved bits and reserved offsets read 0 (R21 to R36). -/
def readReg (off : BitVec 10) (s : State) : Word :=
  if isArgbuf off then (s.argbuf.get (argbufIndex off)).setWidth 32
  else
    match off.toNat with
    | 0x004 => s.statusWord
    | 0x008 => s.seqStart.setWidth 32
    | 0x00C => s.seqCur.setWidth 32
    | 0x010 => s.faultPtr.setWidth 32
    | 0x014 => s.cmd.setWidth 32
    | 0x018 => s.madctl.setWidth 32
    | 0x01C => s.frmctr.setWidth 32
    | 0x020 => s.winX.setWidth 32
    | 0x024 => s.winY.setWidth 32
    | 0x028 => s.winW.setWidth 32
    | 0x02C => s.winH.setWidth 32
    | _ => 0#32

/-- A host write of `v` to the register at `off`, CTRL apart: a field is stored, its reserved bits are discarded, and a write
to a read-only register or a reserved offset has no effect (R21, R24 to R36). BUSY does not matter (R36). -/
def writeReg (off : BitVec 10) (v : Word) (s : State) : State :=
  if isArgbuf off then { s with argbuf := s.argbuf.set (argbufIndex off) (v.setWidth 8) (argbufIndex off).isLt }
  else
    match off.toNat with
    | 0x008 => { s with seqStart := v.setWidth 16 }
    | 0x014 => { s with cmd := v.setWidth 15 }
    | 0x018 => { s with madctl := v.setWidth 8 }
    | 0x01C => { s with frmctr := v.setWidth 24 }
    | 0x020 => { s with winX := v.setWidth 16 }
    | 0x024 => { s with winY := v.setWidth 16 }
    | 0x028 => { s with winW := v.setWidth 16 }
    | 0x02C => { s with winH := v.setWidth 16 }
    | _ => s

/-- A host read: it has no side effect (R69); the word goes to the host. -/
def hostRead (off : BitVec 10) (s : State) : State := { s with rdata := readReg off s }

/-- The host address of window offset `off`, LCDSEQ_BASE + off (R60). -/
def hostAddress (c : Params) (off : BitVec 10) : Nat := c.base + off.toNat

/-- The window offset of a host address, none outside the window (R60, R70). -/
def windowOffset (c : Params) (addr : Nat) : Option (BitVec 10) :=
  if c.base ≤ addr ∧ addr < c.base + 1024 then some (BitVec.ofNat 10 (addr - c.base)) else none

end Sys2Proof.Machine
end

