-- ==== Sys2Proof/Machine/Turns.lean ====
section
/-! DEFINITION. What one turn of each agent does (spec/60_exceptions.md R191), and how an instruction is placed so that the
next step runs it (notes/assumptions/3.md). -/

namespace Sys2Proof.Machine

/-- The engine arrives at the descriptor at `p`: SP <- p, the descriptor is fetched and decoded, and its meaning runs; where
it does not fit in SEQMEM, SEQ_OVERRUN is raised (R121, R182). -/
def runSeqHead (p : SeqPtr) (rest : List Action) (s : State) : Host.Outcome State Fault Refusal :=
  let s' := perform (.seq p) rest s
  match fetchDescriptor s' with
  | .accepted i _ => exec i s'
  | .rejected _ => .next (overrunAtSp s')

/-- The engine step: it performs the head of PEND while ENG is BUSY, and has no step when ENG is IDLE or FAULT (R111). -/
def engineTurn (s : State) : Host.Outcome State Fault Refusal :=
  if s.eng = .busy then
    match s.pend with
    | [] => .fault .emptyPending
    | .seq p :: rest => runSeqHead p rest s
    | .ev e :: rest => .next (perform (.ev e) rest s)
    | .hold n :: rest => .next (perform (.hold n) rest s)
    | .setcur p :: rest => .next (perform (.setcur p) rest s)
    | .fault c p :: rest => .next (perform (.fault c p) rest s)
    | .done :: rest => .next (perform .done rest s)
  else .next s

/-- A host write: CTRL is decoded and runs, another register stores (R21, R22); an access of another form is refused
(R67). -/
def writeTurn (off : BitVec 10) (bytes : Nat) (v : Word) (s : State) : Host.Outcome State Fault Refusal :=
  if accessOk off bytes then
    if off = 0#10 then exec (decodeCtrl v) s else .next (writeReg off v s)
  else .refused .hostAccessForm

/-- A host read (R69); an access of another form is refused (R67). -/
def readTurn (off : BitVec 10) (bytes : Nat) (s : State) : Host.Outcome State Fault Refusal :=
  if accessOk off bytes then .next (hostRead off s) else .refused .hostAccessForm

/-- One turn (R191). RST_N resets at any time (R220). -/
def takeTurn (t : Turn) (s : State) : Host.Outcome State Fault Refusal :=
  match t with
  | .write off bytes v => writeTurn off bytes v s
  | .read off bytes => readTurn off bytes s
  | .engine => engineTurn s
  | .tick => .next (tickAction s)
  | .rstN => .next (resetAction s)

/-- Whose turn it is when the outside world has placed none: the time base's while the engine waits, and the engine's
otherwise (R112: a model assumes weak fairness of TICK; notes/assumptions/2.md). -/
def ownTurn (s : State) : Turn := if s.waiting then .tick else .engine

/-- A CTRL write of `w` as the next turn. -/
def placeCtrlWrite (w : Word) (s : State) : State :=
  { s with turns := .write 0#10 4 w :: s.turns }

/-- The descriptor bytes `bs`, and zeros up to the length of the longest descriptor, as SEQ_IMAGE, its opcode at offset 0, and
the engine about to fetch there. -/
def placeDescriptor (bs : List Byte) (s : State) : State :=
  { s with
    cfg := { s.cfg with seqLast := BitVec.ofNat 16 (maxDescriptor - 1) }
    seqmem := Memory.load 0 bs
    eng := .busy
    pend := [.seq 0#17]
    turns := .engine :: s.turns }

end Sys2Proof.Machine
end

