-- ==== Sys2Proof/Machine/Step.lean ====
section
/-! DEFINITION. One step of LCDSEQ: one turn of one agent (spec/60_exceptions.md R191). -/

namespace Sys2Proof.Machine

/-- The next turn of `turns` is taken; when there is none, the block goes on by itself (`ownTurn`). -/
def step (s : State) : Host.Outcome State Fault Refusal :=
  match s.turns with
  | t :: rest => takeTurn t { s with turns := rest }
  | [] => takeTurn (ownTurn s) s

/-- The instruction of a table row's word, placed so that the next step runs it: a CTRL write as the host's next turn, or a
descriptor as the sequence the engine is about to fetch from (notes/assumptions/3.md). -/
def State.withFetchWord (s : State) (nbits w : Nat) : State :=
  if nbits = 32 then placeCtrlWrite (BitVec.ofNat 32 w) s else placeDescriptor (headerBytes w) s

end Sys2Proof.Machine
end

