-- ==== Sys2Proof/Machine/Expansion.lean ====
section
/-! DEFINITION. The spec's own reading of PEND: the frame written without STAGE (spec/40_command_engine.md R101), ExpandSeq
(R121), and PEND with the tail of a sequence written out in full, as R43 and R110 give it. The machine keeps that tail as
`Action.seq` and writes it out one descriptor at a time (spec/10_state.md R39; notes/assumptions/1.md); these definitions
say what it stands for, and no step calls them. -/

namespace Sys2Proof.Machine

/-- FRAME(bs) written from `bs` itself (R100, R101). -/
def frameActions : List Byte → List Action
  | [] => []
  | opc :: args =>
    [.ev (.cs .low), .ev (.dc .low), .ev (.tx opc), .ev (.dc .high)] ++
      (args.map fun b => .ev (.tx b)) ++ [.ev (.cs .high)]

/-- `[setcur(p), fault(SEQ_OVERRUN, p)]` (R121). -/
def overrunActions (p : Nat) : List Action :=
  [.setcur (BitVec.ofNat 17 p), .fault seqOverrun (BitVec.ofNat 17 p)]

/-- ExpandSeq(p) of R121, to at most `k` descriptors. -/
def expandSeqTo (c : Params) (m : Memory) : Nat → Nat → List Action
  | 0, _ => []
  | k + 1, p =>
    if p ≥ c.seqBytes then overrunActions p
    else if m.read p = 0#8 then [.setcur (BitVec.ofNat 17 p), .done]
    else if p + 1 ≥ c.seqBytes then overrunActions p
    else
      let n := lenFlagsCount (m.read (p + 1))
      if lenFlagsDelay (m.read (p + 1)) then
        if p + (3 + n) > c.seqBytes then overrunActions p
        else
          let ms := m.read (p + 2 + n)
          .setcur (BitVec.ofNat 17 p) :: frameActions (m.read p :: m.readBytes (p + 2) n) ++
            [.ev (.wait ms), .hold ms] ++ expandSeqTo c m k (p + (3 + n))
      else
        if p + (2 + n) > c.seqBytes then overrunActions p
        else
          .setcur (BitVec.ofNat 17 p) :: frameActions (m.read p :: m.readBytes (p + 2) n) ++
            expandSeqTo c m k (p + (2 + n))

/-- ExpandSeq(p) (R121). Each descriptor but END advances p by at least 2, so SEQ_BYTES + 1 descriptors are more than there
can be (R125). -/
def expandSeq (c : Params) (m : Memory) (p : Nat) : List Action := expandSeqTo c m (c.seqBytes + 1) p

/-- The actions one stored action stands for. -/
def writtenOut (c : Params) (m : Memory) : Action → List Action
  | .seq p => expandSeq c m p.toNat
  | a => [a]

/-- PEND as R43 gives it: the stored list with the tail of a sequence written out. -/
def State.pendFull (s : State) : List Action := s.pend.flatMap (writtenOut s.cfg s.seqmem)

/-- The events among some actions, in order. -/
def eventsOf : List Action → List Event
  | [] => []
  | .ev e :: rest => e :: eventsOf rest
  | .hold _ :: rest => eventsOf rest
  | .setcur _ :: rest => eventsOf rest
  | .fault _ _ :: rest => eventsOf rest
  | .done :: rest => eventsOf rest
  | .seq _ :: rest => eventsOf rest

/-- The events of a frame (R100). -/
def frameEvents (bs : List Byte) : List Event := eventsOf (frameActions bs)

/-- The trace when the operation in flight has ended: TR, then the events of PEND (R39, R73). -/
def State.finalTrace (s : State) : List Event := s.tr ++ eventsOf s.pendFull

/-- The steps one action takes when the time base and the engine take turns as they can: one engine step, and one tick
for each count of a hold (R42, R111). -/
def actionSteps : Action → Nat
  | .hold n => n.toNat + 1
  | _ => 1

/-- The steps some actions take (R112). -/
def stepsOf (as : List Action) : Nat := (as.map actionSteps).sum

/-- The instruction is a descriptor that is not END (R84). -/
def isCommand : Instr → Bool
  | .cmd _ _ => true
  | .cmdd _ _ _ => true
  | _ => false

/-- The bytes of a descriptor (R84); a CTRL write has none. -/
def descriptorBytes (i : Instr) : List Byte :=
  match encode i with
  | .descriptor bs => bs
  | .ctrl _ => []

/-- The bytes of some descriptors stored back to back (R82). -/
def sequenceBytes (ds : List Instr) : List Byte := ds.flatMap descriptorBytes

/-- The events of a descriptor: its frame, and a WAIT exactly when D = 1 (R122, R123, R126). -/
def descriptorEvents : Instr → List Event
  | .cmd opc args => frameEvents (opc :: args)
  | .cmdd opc args ms => frameEvents (opc :: args) ++ [.wait ms]
  | _ => []

/-- All bytes of SEQMEM from offset `p` on (R61). -/
def bytesFrom (c : Params) (m : Memory) (p : Nat) : List Byte := m.readBytes p (c.seqBytes - p)

end Sys2Proof.Machine
end

