-- ==== Sys2Proof/Safety.lean ====
section
/-! DEFINITION. What every reachable state of LCDSEQ satisfies (spec/10_state.md R23, R25, R43, R45,
spec/40_command_engine.md R102, R103, R123), and the terms the claims about whole runs use. -/

namespace Sys2Proof.Machine

/-- The level of CS_N that a trace leaves (R45): that of the last CS event, or high after RST or before any. -/
def csAfter : List Event → Level :=
  List.foldl (fun l e => match e with | .cs v => v | .rst => .high | _ => l) .high

/-- The level of DC that a trace leaves (R45). -/
def dcAfter : List Event → Level :=
  List.foldl (fun l e => match e with | .dc v => v | .rst => .high | _ => l) .high

/-- `PEND` from the line levels `cs` and `dc` on: it ends in one closing action (`done`, a fault, or the rest of a sequence),
reached with CS_N and DC high (R43, R102, R183); every byte goes out while CS_N is low (R103); every wait begins and passes
while CS_N is high (R123); pointers stay within 0 to 65536 (R25); SEQ_OVERRUN is the only cause (R181). -/
def closes (cs dc : Level) : List Action → Bool
  | [] => false
  | .ev (.cs v) :: rest => closes v dc rest
  | .ev (.dc v) :: rest => closes cs v rest
  | .ev (.tx _) :: rest => cs == .low && closes cs dc rest
  | .ev (.wait _) :: rest => cs == .high && closes cs dc rest
  | .ev .rst :: _ => false
  | .hold _ :: rest => cs == .high && closes cs dc rest
  | .setcur p :: rest => p.toNat ≤ 65536 && closes cs dc rest
  | .fault c p :: rest =>
    c == seqOverrun && p.toNat ≤ 65536 && cs == .high && dc == .high && rest.isEmpty
  | .done :: rest => cs == .high && dc == .high && rest.isEmpty
  | .seq p :: rest => p.toNat ≤ 65536 && cs == .high && dc == .high && rest.isEmpty

/-- The invariant of the machine. -/
structure State.Inv (s : State) : Prop where
  /-- SEQMEM is in canonical form (R61). -/
  memory : s.seqmem.wf s.cfg.seqBytes = true
  /-- CS_N follows the trace (R45). -/
  csN : s.csN = csAfter s.tr
  /-- DC follows the trace (R45). -/
  dc : s.dc = dcAfter s.tr
  /-- While BUSY, PEND is non-empty and closes as it must (R43). -/
  busy : s.eng = .busy → closes s.csN s.dc s.pend = true
  /-- While IDLE or in FAULT, PEND is empty, CS_N = 1 and DC = 1 (R43, R102). -/
  quiet : s.eng ≠ .busy → s.pend = [] ∧ s.csN = .high ∧ s.dc = .high
  /-- CAUSE is SEQ_OVERRUN in FAULT and 0 otherwise (R23, R181). -/
  cause : s.cause = if s.eng = .fault then seqOverrun else 0#4
  /-- SP, SEQ_CUR and FAULT_PTR never exceed 65536 (R25). -/
  pointers : s.sp.toNat ≤ 65536 ∧ s.seqCur.toNat ≤ 65536 ∧ s.faultPtr.toNat ≤ 65536

/-- LCDSEQ is quiescent (R200). -/
def State.quiescent (s : State) : Bool := s.eng != .busy && s.pend.isEmpty

/-- The state with PEND written out in full, as R43 and R49 give it. -/
def State.unfolded (s : State) : State := { s with pend := s.pendFull }

/-- The state with STAGE left out (R38, R49: a model may omit it). -/
def State.withoutStage (s : State) : State := { s with stage := Vector.replicate 128 0#8 }

/-- The turn `step` takes in `s`. -/
def State.nextTurn (s : State) : Turn :=
  match s.turns with
  | t :: _ => t
  | [] => ownTurn s

/-- The turns left after that one. -/
def State.laterTurns (s : State) : List Turn := s.turns.tail

/-- The turn is a CTRL write of a 32-bit word (R22). -/
def Turn.ctrlWord? : Turn → Option Word
  | .write off bytes v => if accessOk off bytes && off == 0#10 then some v else none
  | _ => none

end Sys2Proof.Machine
end

