-- ==== Sys2Proof/Certificates/Slice0/Obligations.lean ====
section
/-! DEFINITION. The statements about LCDSEQ. Each docstring names the rules of spec/ it formalises. Where a statement names
`turns`, that list is the model's form of R191's interleaving (notes/assumptions/2.md); where it names `Action.seq`, that is
the model's form of the rest of a sequence (notes/assumptions/1.md). -/

open Sys2Proof Sys2Proof.Machine

/-! ### Encoding -/

/-- Words written out from the encodings of R80, R81, R84 decode to the instruction they stand for. Two of the words match two
rows of the table: that 0x40000000 is named ERRCLR, and 0x40000005 FILL with its ERRCLR bit, is the model's choice
(notes/assumptions/8.md). -/
def Obligations.SampleWordsDecode : Prop :=
  decodeCtrl 0x00000001#32 = .sendCmd false 0#26 ∧
  decodeCtrl 0x40000005#32 = .fill true 0#26 ∧
  decodeCtrl 0x80000002#32 = .srst 0x00000002#31 ∧
  decodeCtrl 0x40000000#32 = .errclr 0#26 0#4 ∧
  decodeCtrl 0x0000001E#32 = .reservedOp815 false 1#26 6#3 ∧
  decodeDescriptor [0x3A#8, 0x01#8, 0x05#8, 0x00#8] = .accepted (.cmd 0x3A#8 [0x05#8]) [0x00#8] ∧
  decodeDescriptor [0x01#8, 0x80#8, 0x0A#8] = .accepted (.cmdd 0x01#8 [] 0x0A#8) []

/-- Decoding the words of a well-formed instruction gives it back, with every operand, whatever bytes follow a descriptor
(R81, R83, R84, R87). -/
def Obligations.DecodeOfEncodeGivesInstructionBack : Prop :=
  ∀ i : Instr, i.wellFormed = true →
    (∃ w, encode i = .ctrl w ∧ decodeCtrl w = i) ∨
    (∃ bs, encode i = .descriptor bs ∧ ∀ rest, decodeDescriptor (bs ++ rest) = .accepted i rest)

/-- Every 32-bit CTRL value is the word of exactly the well-formed instruction it decodes to: no bit of it is dropped and no
two rows take it (R80, R81, R95). -/
def Obligations.EveryCtrlWordHasItsOwnInstruction : Prop :=
  ∀ w : Word, (decodeCtrl w).wellFormed = true ∧ encode (decodeCtrl w) = .ctrl w

/-- A descriptor is exactly the bytes its instruction encodes to, and the next descriptor starts after them (R84, R88). -/
def Obligations.DescriptorTakesExactlyItsBytes : Prop :=
  ∀ (bs rest : List Byte) (i : Instr), decodeDescriptor bs = .accepted i rest →
    i.wellFormed = true ∧ (i = .endSeq ∨ isCommand i = true) ∧ bs = descriptorBytes i ++ rest

/-- The decoding procedure (R87): END is tested first and wins; otherwise N is bits 6:0 and D bit 7 of the second byte, D = 0 is
CMD of length 2 + N, D = 1 is CMDD of length 3 + N with the delay byte after the arguments. -/
def Obligations.DecodingFollowsTheProcedure : Prop :=
  (∀ rest : List Byte, decodeDescriptor (0x00#8 :: rest) = .accepted .endSeq rest) ∧
  ∀ (opc lf ms : Byte) (args rest : List Byte), opc ≠ 0x00#8 → args.length = (lf.extractLsb' 0 7).toNat →
    (lf.getLsbD 7 = false → decodeDescriptor (opc :: lf :: (args ++ rest)) = .accepted (.cmd opc args) rest) ∧
    (lf.getLsbD 7 = true → decodeDescriptor (opc :: lf :: (args ++ ms :: rest)) = .accepted (.cmdd opc args ms) rest)

/-- CTRL.OP, bits 3:0, selects the operation; it is read only when SRST = 0 (R80). A NOP that carries ERRCLR is the word of the
table's ERRCLR row (notes/assumptions/8.md). -/
def Obligations.OpSelectsTheOperation : Prop :=
  ∀ w : Word,
    (w.getLsbD 31 = true → ∃ x, decodeCtrl w = .srst x) ∧
    (w.getLsbD 31 = false →
      ((w.extractLsb' 0 4).toNat = 0 → ∃ x, decodeCtrl w = if w.getLsbD 30 then .errclr x 0#4 else .nop false x) ∧
      ((w.extractLsb' 0 4).toNat = 1 → ∃ x, decodeCtrl w = .sendCmd (w.getLsbD 30) x) ∧
      ((w.extractLsb' 0 4).toNat = 2 → ∃ x, decodeCtrl w = .runSeq (w.getLsbD 30) x) ∧
      ((w.extractLsb' 0 4).toNat = 3 → ∃ x, decodeCtrl w = .configure (w.getLsbD 30) x) ∧
      ((w.extractLsb' 0 4).toNat = 4 → ∃ x, decodeCtrl w = .setWindow (w.getLsbD 30) x) ∧
      ((w.extractLsb' 0 4).toNat = 5 → ∃ x, decodeCtrl w = .fill (w.getLsbD 30) x) ∧
      ((w.extractLsb' 0 4).toNat ∈ [6, 7] → ∃ x r, decodeCtrl w = .reservedOp67 (w.getLsbD 30) x r) ∧
      ((w.extractLsb' 0 4).toNat ≥ 8 → ∃ x r, decodeCtrl w = .reservedOp815 (w.getLsbD 30) x r))

/-! ### Reset -/

/-- Power-on (R222, with the values of R48): every register 0, ENG = IDLE, PEND and TR empty, CS_N = DC = 1, and SEQMEM holds
SEQ_IMAGE. -/
def Obligations.PowerOnState : Prop :=
  (∃ st : Buffer, State.reset =
    { cfg := Config.chip, seqmem := State.reset.seqmem, eng := .idle, pend := [], sp := 0#17, reject := false, badop := false,
      cause := 0#4, seqStart := 0#16, seqCur := 0#17, faultPtr := 0#17, cmd := 0#15, madctl := 0#8, frmctr := 0#24, winX := 0#16, winY := 0#16,
      winW := 0#16, winH := 0#16, argbuf := Vector.replicate 128 0#8, stage := st, csN := .high, dc := .high, tr := [],
      turns := State.reset.turns, rdata := State.reset.rdata, draws := State.reset.draws }) ∧
  (∀ p < State.reset.cfg.seqBytes, State.reset.seqmem.read p = Config.seqImage p)

/-- The state at power-on satisfies the invariant. -/
def Obligations.PowerOnStateSatisfiesInvariant : Prop := State.reset.Inv

/-- The reset action (R221): SRST when ENG is not BUSY and RST_N at any time set every register and internal state to its
reset value (R48), drive CS_N and DC high, append RST to TR and leave SEQMEM alone; SRST while BUSY sets REJECT instead.
STAGE after a reset is unspecified (R48), so it is existential here, with the model's counter of free values. -/
def Obligations.ResetAction : Prop :=
  (∀ (x : BitVec 31) (s : State), s.eng ≠ .busy → ∃ (st : Buffer) (n : Nat),
    exec (.srst x) s = .next
      { s with
        eng := .idle, pend := [], sp := 0#17, reject := false, badop := false, cause := 0#4, seqStart := 0#16, seqCur := 0#17,
        faultPtr := 0#17, cmd := 0#15, madctl := 0#8, frmctr := 0#24, winX := 0#16, winY := 0#16, winW := 0#16, winH := 0#16,
        argbuf := Vector.replicate 128 0#8, stage := st, csN := .high, dc := .high, tr := s.tr ++ [.rst], draws := n }) ∧
  (∀ (x : BitVec 31) (s : State), s.eng = .busy → exec (.srst x) s = .next { s with reject := true }) ∧
  (∀ s : State, s.nextTurn = .rstN → ∃ (st : Buffer) (n : Nat),
    step s = .next
      { s with
        eng := .idle, pend := [], sp := 0#17, reject := false, badop := false, cause := 0#4, seqStart := 0#16, seqCur := 0#17,
        faultPtr := 0#17, cmd := 0#15, madctl := 0#8, frmctr := 0#24, winX := 0#16, winY := 0#16, winW := 0#16, winH := 0#16,
        argbuf := Vector.replicate 128 0#8, stage := st, csN := .high, dc := .high, tr := s.tr ++ [.rst], draws := n,
        turns := s.laterTurns })

/-! ### What a step runs -/

/-- A 32-bit host write to CTRL runs the instruction its value decodes to (R22, R95). -/
def Obligations.StepRunsCtrlWrite : Prop :=
  ∀ (s : State) (v : Word) (later : List Turn), s.turns = .write 0x000#10 4 v :: later →
    step s = exec (decodeCtrl v) { s with turns := later }

/-- CTRL (R22): a write is handled in the order SRST, ERRCLR, OP, whatever its reserved bits hold. SRST resets, or is refused with
REJECT while BUSY, and the rest is ignored; ERRCLR clears REJECT and BADOP; then NOP does no more, a reserved OP sets
BADOP, and a start is accepted in IDLE and refused with REJECT otherwise (R110, R186, R187, R189). Every read of CTRL returns
0. That the step that accepts RUN_SEQ leaves SEQ_CUR is the model's reading of R25 and R110 (notes/assumptions/9.md). -/
def Obligations.CtrlWriteIsHandledInOrder : Prop :=
  (∀ (s : State) (w : Word) (later : List Turn), s.turns = .write 0x000#10 4 w :: later →
    (w.getLsbD 31 = true → s.eng = .busy → step s = .next { s with turns := later, reject := true }) ∧
    (w.getLsbD 31 = true → s.eng ≠ .busy → step s = .next (resetAction { s with turns := later })) ∧
    (w.getLsbD 31 = false → (w.extractLsb' 0 4).toNat = 0 →
      step s = .next { s with turns := later, reject := !w.getLsbD 30 && s.reject, badop := !w.getLsbD 30 && s.badop }) ∧
    (w.getLsbD 31 = false → 6 ≤ (w.extractLsb' 0 4).toNat →
      step s = .next { s with turns := later, reject := !w.getLsbD 30 && s.reject, badop := true }) ∧
    (w.getLsbD 31 = false → 1 ≤ (w.extractLsb' 0 4).toNat → (w.extractLsb' 0 4).toNat ≤ 5 → s.eng ≠ .idle →
      step s = .next { s with turns := later, reject := true, badop := !w.getLsbD 30 && s.badop }) ∧
    (w.getLsbD 31 = false → 1 ≤ (w.extractLsb' 0 4).toNat → (w.extractLsb' 0 4).toNat ≤ 5 → s.eng = .idle →
      ∃ t : State, step s = .next t ∧ t.pend ≠ [] ∧
        t = { s with
          turns := later, reject := !w.getLsbD 30 && s.reject, badop := !w.getLsbD 30 && s.badop, eng := .busy,
          pend := t.pend, sp := t.sp, stage := t.stage })) ∧
  ∀ s : State, readReg 0x000#10 s = 0#32

/-- When the engine reaches the descriptor at `p` and the bytes of SEQMEM from `p` on decode to `i`, the step is `exec` of `i`
with SP = p and the engine past that action (R87, R121). `Action.seq p` is the model's form of ExpandSeq(p)
(notes/assumptions/1.md). -/
def Obligations.StepRunsDescriptorAtPointer : Prop :=
  ∀ (s : State) (p : SeqPtr) (rest : List Action) (later : List Turn) (i : Instr) (r : List Byte),
    s.eng = .busy → s.pend = .seq p :: rest →
    (s.turns = .engine :: later ∨ (s.turns = [] ∧ later = [])) →
    decodeDescriptor (bytesFrom s.cfg s.seqmem p.toNat) = .accepted i r →
    step s = exec i { s with turns := later, sp := p, pend := rest }

/-- SEQ_OVERRUN is raised when the descriptor does not fit inside SEQMEM, in the three cases of R182, before that descriptor
emits any event: the step leaves SP = SEQ_CUR = p and the fault action at the head of PEND (R121). -/
def Obligations.DescriptorOutsideSeqmemRaisesOverrun : Prop :=
  ∀ (s : State) (p : SeqPtr) (rest : List Action) (later : List Turn),
    s.eng = .busy → s.pend = .seq p :: rest →
    (s.turns = .engine :: later ∨ (s.turns = [] ∧ later = [])) →
    (p.toNat ≥ s.cfg.seqBytes ∨
      (s.seqmem.read p.toNat ≠ 0#8 ∧ p.toNat + 1 ≥ s.cfg.seqBytes) ∨
      (s.seqmem.read p.toNat ≠ 0#8 ∧
        p.toNat + 2 + ((s.seqmem.read (p.toNat + 1)).extractLsb' 0 7).toNat +
          ((s.seqmem.read (p.toNat + 1)).extractLsb' 7 1).toNat > s.cfg.seqBytes)) →
    step s = .next { s with turns := later, sp := p, seqCur := p, pend := .fault 1#4 p :: rest }

/-! ### The descriptors -/

/-- CMD (R122): SEQ_CUR takes the descriptor's offset, its frame goes to the front of PEND, and the next descriptor is at
p + 2 + N; where p + 2 + N > SEQ_BYTES it raises SEQ_OVERRUN and frames nothing. Nothing else changes but STAGE. -/
def Obligations.CmdDescriptorEffect : Prop :=
  ∀ (opc : Byte) (args : List Byte) (s : State), args.length ≤ 127 →
    (s.sp.toNat + 2 + args.length ≤ s.cfg.seqBytes →
      ∃ (st : Buffer) (q : SeqPtr), q.toNat = s.sp.toNat + 2 + args.length ∧
        exec (.cmd opc args) s = .next
          { s with
            seqCur := s.sp, stage := st,
            pend := [.ev (.cs .low), .ev (.dc .low), .ev (.tx opc), .ev (.dc .high)] ++
              (args.map fun a => .ev (.tx a)) ++ [.ev (.cs .high)] ++ [.seq q] ++ s.pend }) ∧
    (s.sp.toNat + 2 + args.length > s.cfg.seqBytes →
      exec (.cmd opc args) s = .next { s with seqCur := s.sp, pend := .fault 1#4 s.sp :: s.pend })

/-- CMDD (R123): as CMD, then WAIT(MS) and a hold of MS after the frame's CS(1), and the next descriptor is at p + 3 + N. -/
def Obligations.CmddDescriptorEffect : Prop :=
  ∀ (opc : Byte) (args : List Byte) (ms : Byte) (s : State), args.length ≤ 127 →
    (s.sp.toNat + 3 + args.length ≤ s.cfg.seqBytes →
      ∃ (st : Buffer) (q : SeqPtr), q.toNat = s.sp.toNat + 3 + args.length ∧
        exec (.cmdd opc args ms) s = .next
          { s with
            seqCur := s.sp, stage := st,
            pend := [.ev (.cs .low), .ev (.dc .low), .ev (.tx opc), .ev (.dc .high)] ++
              (args.map fun a => .ev (.tx a)) ++ [.ev (.cs .high), .ev (.wait ms), .hold ms] ++ [.seq q] ++ s.pend }) ∧
    (s.sp.toNat + 3 + args.length > s.cfg.seqBytes →
      exec (.cmdd opc args ms) s = .next { s with seqCur := s.sp, pend := .fault 1#4 s.sp :: s.pend })

/-- END (R124): `[setcur(p), done]`, no event; SEQ_CUR takes the offset of the sentinel. -/
def Obligations.EndDescriptorEffect : Prop :=
  ∀ s : State, exec .endSeq s = .next { s with seqCur := s.sp, pend := .done :: s.pend }

/-! ### The host operations -/

/-- NOP (R113): nothing changes but the flags ERRCLR clears, whatever ENG is; it is never refused. -/
def Obligations.NopEffect : Prop :=
  ∀ (e : Bool) (x : BitVec 26) (s : State),
    exec (.nop e x) s = .next { s with reject := !e && s.reject, badop := !e && s.badop }

/-- A reserved OP sets BADOP, never REJECT, and starts nothing, whatever ENG is (R187); ERRCLR comes first (R189). -/
def Obligations.ReservedOpSetsBadop : Prop :=
  ∀ (e : Bool) (x : BitVec 26) (s : State),
    (∀ r : BitVec 1, exec (.reservedOp67 e x r) s = .next { s with reject := !e && s.reject, badop := true }) ∧
    (∀ r : BitVec 3, exec (.reservedOp815 e x r) s = .next { s with reject := !e && s.reject, badop := true })

/-- A start (OP 1 to 5) while ENG is BUSY or FAULT sets REJECT; ENG, PEND, TR and every other register are unchanged (R110,
R186). ERRCLR in the same write comes first, so REJECT is set all the same (R189). -/
def Obligations.StartWhileNotIdleIsRefused : Prop :=
  ∀ (e : Bool) (x : BitVec 26) (s : State), s.eng ≠ .idle →
    ∀ i ∈ [Instr.sendCmd e x, .runSeq e x, .configure e x, .setWindow e x, .fill e x],
      exec i s = .next { s with reject := true, badop := !e && s.badop }

/-- SEND_CMD from IDLE (R110, R114): PEND takes the frame of CMD.OPCODE and ARGBUF[0..ARGLEN-1], and nothing else changes but
ENG, STAGE and the flags ERRCLR clears. -/
def Obligations.SendCmdStart : Prop :=
  ∀ (e : Bool) (x : BitVec 26) (s : State), s.eng = .idle → ∃ st : Buffer,
    exec (.sendCmd e x) s = .next
      { s with
        reject := !e && s.reject, badop := !e && s.badop, eng := .busy, stage := st,
        pend := [.ev (.cs .low), .ev (.dc .low), .ev (.tx (s.cmd.extractLsb' 0 8)), .ev (.dc .high)] ++
          ((s.argbuf.toList.take (s.cmd.extractLsb' 8 7).toNat).map fun a => .ev (.tx a)) ++
          [.ev (.cs .high), .done] }

/-- RUN_SEQ from IDLE (R25, R110, R120): ENG is BUSY, SP is SEQ_START, PEND is ExpandSeq(SEQ_START) of R121, and nothing else
changes but the flags ERRCLR clears. The stored PEND is the model's form of that list (notes/assumptions/1.md),
and that SP moves in this step and SEQ_CUR does not is the model's reading (notes/assumptions/9.md). -/
def Obligations.RunSeqStart : Prop :=
  ∀ (e : Bool) (x : BitVec 26) (s : State), s.eng = .idle → ∃ t : State,
    exec (.runSeq e x) s = .next t ∧
    t = { s with
      reject := !e && s.reject, badop := !e && s.badop, eng := .busy, sp := s.seqStart.setWidth 17,
      pend := [.seq (s.seqStart.setWidth 17)] } ∧
    t.pendFull = expandSeq s.cfg s.seqmem s.seqStart.toNat

/-- CONFIGURE from IDLE (R110, R140, R141): the orientation frame, then the frame-rate frame, whose low byte is sent only if it
is not 0xFF. -/
def Obligations.ConfigureStart : Prop :=
  ∀ (e : Bool) (x : BitVec 26) (s : State), s.eng = .idle → ∃ st : Buffer,
    exec (.configure e x) s = .next
      { s with
        reject := !e && s.reject, badop := !e && s.badop, eng := .busy, stage := st,
        pend := [.ev (.cs .low), .ev (.dc .low), .ev (.tx s.cfg.opcMadctl), .ev (.dc .high), .ev (.tx s.madctl),
            .ev (.cs .high), .ev (.cs .low), .ev (.dc .low), .ev (.tx s.cfg.opcFrmctr1), .ev (.dc .high),
            .ev (.tx (s.frmctr.extractLsb' 16 8)), .ev (.tx (s.frmctr.extractLsb' 8 8))] ++
          (if s.frmctr.extractLsb' 0 8 = 0xFF#8 then [] else [.ev (.tx (s.frmctr.extractLsb' 0 8))]) ++
          [.ev (.cs .high), .done] }

/-- SET_WINDOW from IDLE (R110, R142, R143, R144): the row-axis frame with X and (X + W - 1) mod 2^16, then the column-axis
frame with Y and (Y + H - 1) mod 2^16, each high byte first, in two chip-select windows. -/
def Obligations.SetWindowStart : Prop :=
  ∀ (e : Bool) (x : BitVec 26) (s : State), s.eng = .idle → ∃ (st : Buffer) (xe ye : BitVec 16),
    xe.toNat = (s.winX.toNat + s.winW.toNat + 65535) % 65536 ∧
    ye.toNat = (s.winY.toNat + s.winH.toNat + 65535) % 65536 ∧
    exec (.setWindow e x) s = .next
      { s with
        reject := !e && s.reject, badop := !e && s.badop, eng := .busy, stage := st,
        pend := [.ev (.cs .low), .ev (.dc .low), .ev (.tx s.cfg.opcRowset), .ev (.dc .high),
          .ev (.tx (s.winX.extractLsb' 8 8)), .ev (.tx (s.winX.extractLsb' 0 8)),
          .ev (.tx (xe.extractLsb' 8 8)), .ev (.tx (xe.extractLsb' 0 8)), .ev (.cs .high),
          .ev (.cs .low), .ev (.dc .low), .ev (.tx s.cfg.opcColset), .ev (.dc .high),
          .ev (.tx (s.winY.extractLsb' 8 8)), .ev (.tx (s.winY.extractLsb' 0 8)),
          .ev (.tx (ye.extractLsb' 8 8)), .ev (.tx (ye.extractLsb' 0 8)), .ev (.cs .high), .done] }

/-- FILL from IDLE (R110, R160, R163, R164): the memory-write opcode with DC low, then 2 * W * H data bytes with DC high, all
in one chip-select window; nothing else changes but ENG and the flags ERRCLR clears. -/
def Obligations.FillStart : Prop :=
  ∀ (e : Bool) (x : BitVec 26) (s : State), s.eng = .idle → ∃ data : List Byte,
    data.length = 2 * s.winW.toNat * s.winH.toNat ∧
    exec (.fill e x) s = .next
      { s with
        reject := !e && s.reject, badop := !e && s.badop, eng := .busy,
        pend := [.ev (.cs .low), .ev (.dc .low), .ev (.tx s.cfg.opcRamwr), .ev (.dc .high)] ++
          (data.map fun b => .ev (.tx b)) ++ [.ev (.cs .high), .done] }

/-- The pixel at column i and row j of a FILL is (2 * i) mod 2^16, high byte first, at the place FILL_ORDER gives it: the
(i * H + j)-th pixel sent in column_major, the (j * W + i)-th in row_major (R64, R161, R162). -/
def Obligations.FillPixelAtItsPlace : Prop :=
  ∀ (e : Bool) (x : BitVec 26) (s : State), s.eng = .idle →
    ∀ i j : Nat, i < s.winW.toNat → j < s.winH.toNat → ∃ t : State,
      exec (.fill e x) s = .next t ∧
      ∃ k : Nat,
        k = (match s.cfg.fillOrder with
          | .columnMajor => i * s.winH.toNat + j
          | .rowMajor => j * s.winW.toNat + i) ∧
        t.pend[4 + 2 * k]? = some (.ev (.tx (BitVec.ofNat 8 (2 * i / 256)))) ∧
        t.pend[4 + 2 * k + 1]? = some (.ev (.tx (BitVec.ofNat 8 (2 * i))))

/-- ERRCLR (R22, R189): REJECT and BADOP are cleared, then OP is performed: NOP does no more, a reserved OP sets BADOP, and a
start does what the operation with its ERRCLR bit set does. -/
def Obligations.ErrclrClearsThenPerformsOp : Prop :=
  ∀ (x : BitVec 26) (s : State),
    exec (.errclr x 0#4) s = .next { s with reject := false, badop := false } ∧
    (∀ op : BitVec 4, op.toNat ≥ 6 → exec (.errclr x op) s = .next { s with reject := false, badop := true }) ∧
    (∃ t, exec (.errclr x 1#4) s = .next t ∧ exec (.sendCmd true x) s = .next t) ∧
    (∃ t, exec (.errclr x 2#4) s = .next t ∧ exec (.runSeq true x) s = .next t) ∧
    (∃ t, exec (.errclr x 3#4) s = .next t ∧ exec (.configure true x) s = .next t) ∧
    (∃ t, exec (.errclr x 4#4) s = .next t ∧ exec (.setWindow true x) s = .next t) ∧
    (∃ t, exec (.errclr x 5#4) s = .next t ∧ exec (.fill true x) s = .next t)

/-- Two starts of the same operation with equal latched operands give equal PEND, whatever else the two states hold: each
operation reads only its own operands, SEQMEM and the parameters (R39, R115, R127, R128). -/
def Obligations.OperationReadsOnlyItsOperands : Prop :=
  ∀ (e e' : Bool) (x x' : BitVec 26) (s s' : State), s.eng = .idle → s'.eng = .idle → s.cfg = s'.cfg →
    s.seqmem = s'.seqmem →
    (s.cmd = s'.cmd →
      s.argbuf.toList.take (s.cmd.extractLsb' 8 7).toNat = s'.argbuf.toList.take (s.cmd.extractLsb' 8 7).toNat →
      ∃ t t', exec (.sendCmd e x) s = .next t ∧ exec (.sendCmd e' x') s' = .next t' ∧ t.pendFull = t'.pendFull) ∧
    (s.seqStart = s'.seqStart →
      ∃ t t', exec (.runSeq e x) s = .next t ∧ exec (.runSeq e' x') s' = .next t' ∧ t.pendFull = t'.pendFull) ∧
    (s.madctl = s'.madctl → s.frmctr = s'.frmctr →
      ∃ t t', exec (.configure e x) s = .next t ∧ exec (.configure e' x') s' = .next t' ∧ t.pendFull = t'.pendFull) ∧
    (s.winX = s'.winX → s.winY = s'.winY → s.winW = s'.winW → s.winH = s'.winH →
      ∃ t t', exec (.setWindow e x) s = .next t ∧ exec (.setWindow e' x') s' = .next t' ∧ t.pendFull = t'.pendFull) ∧
    (s.winW = s'.winW → s.winH = s'.winH →
      ∃ t t', exec (.fill e x) s = .next t ∧ exec (.fill e' x') s' = .next t' ∧ t.pendFull = t'.pendFull)

/-- FRAME (R100, R101): the bytes are copied into STAGE[0..len-1], the rest of STAGE stays, and what is transmitted is CS(0),
DC(0), the opcode, DC(1), the arguments in order, CS(1). -/
def Obligations.FrameCopiesToStageAndTransmits : Prop :=
  ∀ (st : Buffer) (opc : Byte) (args : List Byte), args.length ≤ 127 →
    (frame st (opc :: args)).2 =
      [.ev (.cs .low), .ev (.dc .low), .ev (.tx opc), .ev (.dc .high)] ++ (args.map fun a => .ev (.tx a)) ++
        [.ev (.cs .high)] ∧
    ∀ i : Fin 128, (frame st (opc :: args)).1[i] = (opc :: args).getD i.val st[i]

/-! ### The engine, the time base and faults -/

/-- The engine step (R111), head action by head action; with `Action.seq` apart, which stands for further actions
(notes/assumptions/1.md). When ENG is IDLE or FAULT the engine has no step. -/
def Obligations.EngineStepPerformsHead : Prop :=
  (∀ (s : State) (later : List Turn) (rest : List Action), s.eng = .busy → s.turns = .engine :: later →
    (∀ v, s.pend = .ev (.cs v) :: rest →
      step s = .next { s with turns := later, pend := rest, tr := s.tr ++ [.cs v], csN := v }) ∧
    (∀ v, s.pend = .ev (.dc v) :: rest →
      step s = .next { s with turns := later, pend := rest, tr := s.tr ++ [.dc v], dc := v }) ∧
    (∀ b, s.pend = .ev (.tx b) :: rest →
      step s = .next { s with turns := later, pend := rest, tr := s.tr ++ [.tx b] }) ∧
    (∀ n, s.pend = .ev (.wait n) :: rest →
      step s = .next { s with turns := later, pend := rest, tr := s.tr ++ [.wait n] }) ∧
    (s.pend = .hold 0#8 :: rest → step s = .next { s with turns := later, pend := rest }) ∧
    (∀ n, n ≠ 0#8 → s.pend = .hold n :: rest → step s = .next { s with turns := later }) ∧
    (∀ p, s.pend = .setcur p :: rest → step s = .next { s with turns := later, pend := rest, sp := p, seqCur := p }) ∧
    (∀ c p, s.pend = .fault c p :: rest → step s = .next
      { s with turns := later, eng := .fault, cause := c, faultPtr := p, seqCur := p, sp := p, pend := [] }) ∧
    (s.pend = .done :: rest → step s = .next { s with turns := later, pend := [], eng := .idle })) ∧
  (∀ (s : State) (later : List Turn), s.eng ≠ .busy → s.turns = .engine :: later →
    step s = .next { s with turns := later })

/-- Fault entry (R183): in one step ENG is FAULT (BUSY 0, FAULT 1), CAUSE, FAULT_PTR, SEQ_CUR and SP are written, PEND is empty,
no event is emitted, every other register is unchanged, and CS_N and DC are already 1. -/
def Obligations.FaultEntry : Prop :=
  ∀ (s : State) (c : BitVec 4) (p : SeqPtr) (rest : List Action) (later : List Turn), s.Inv → s.eng = .busy →
    s.pend = .fault c p :: rest → s.turns = .engine :: later →
    s.csN = .high ∧ s.dc = .high ∧
    step s = .next
      { s with turns := later, eng := .fault, cause := c, faultPtr := p, seqCur := p, sp := p, pend := [] }

/-- While ENG = FAULT the engine has no step and no turn changes the fault record or the trace, until a reset: RST_N, or a CTRL
write with SRST (R184, R185, R192). -/
def Obligations.FaultIsLeftOnlyByReset : Prop :=
  ∀ s t : State, s.eng = .fault → step s = .next t →
    (t.eng = .fault ∧ t.tr = s.tr ∧ t.cause = s.cause ∧ t.faultPtr = s.faultPtr ∧ t.seqCur = s.seqCur ∧ t.sp = s.sp) ∨
    (t.eng = .idle ∧ t.tr = s.tr ++ [.rst] ∧ t.faultPtr = 0#17 ∧ t.cause = 0#4 ∧
      (s.nextTurn = .rstN ∨ ∃ w, s.nextTurn.ctrlWord? = some w ∧ w.getLsbD 31 = true))

/-- An operation in flight ends only by the engine performing `done` or `fault`, or by hardware reset: no operation is
cancelled (R112, R186, R220). -/
def Obligations.OperationEndsOnlyByDoneFaultOrHardwareReset : Prop :=
  ∀ s t : State, s.eng = .busy → step s = .next t → t.eng ≠ .busy →
    (s.nextTurn = .engine ∧ t.eng = .idle ∧ ∃ rest, s.pend = .done :: rest) ∨
    (s.nextTurn = .engine ∧ t.eng = .fault ∧ ∃ c p rest, s.pend = .fault c p :: rest) ∨
    (s.nextTurn = .rstN ∧ t.eng = .idle)

/-- A TICK counts down a hold at the head of PEND, and has no effect at any other time (R42, R193). -/
def Obligations.TickCountsDownHoldOnly : Prop :=
  ∀ (s : State) (later : List Turn), s.turns = .tick :: later →
    (∀ n rest, s.pend = .hold n :: rest → n ≠ 0#8 → ∃ m : Byte, m.toNat = n.toNat - 1 ∧
      step s = .next { s with turns := later, pend := .hold m :: rest }) ∧
    ((∀ n rest, s.pend = .hold n :: rest → n = 0#8) → step s = .next { s with turns := later })

/-! ### The register window -/

/-- A 32-bit write of `v` to a read-write register stores its field and discards the other bits, whether or not the engine is
BUSY; it reads back masked, every other register reads as before, and nothing else changes (R21, R24, R27 to R34, R36). -/
def Obligations.OperandWriteReadsBackMasked : Prop :=
  ∀ (s : State) (later : List Turn) (off : BitVec 10) (mask v : Word), s.turns = .write off 4 v :: later →
    ((off, mask) ∈ [(0x008#10, 0xFFFF#32), (0x014#10, 0x7FFF#32), (0x018#10, 0xFF#32), (0x01C#10, 0xFFFFFF#32),
        (0x020#10, 0xFFFF#32), (0x024#10, 0xFFFF#32), (0x028#10, 0xFFFF#32), (0x02C#10, 0xFFFF#32)] ∨
      (mask = 0xFF#32 ∧ ∃ k < 128, off = BitVec.ofNat 10 (0x200 + 4 * k))) →
    ∃ t : State, step s = .next t ∧ readReg off t = v &&& mask ∧
      (∀ off' : BitVec 10, off' ≠ off → off'.extractLsb' 0 2 = 0#2 → readReg off' t = readReg off' s) ∧
      t = { s with
        turns := later, seqStart := t.seqStart, cmd := t.cmd, madctl := t.madctl, frmctr := t.frmctr, winX := t.winX,
        winY := t.winY, winW := t.winW, winH := t.winH, argbuf := t.argbuf }

/-- A write to a read-only register (STATUS, SEQ_CUR, FAULT_PTR) or to a reserved offset changes nothing, and CTRL and the
reserved offsets read 0 (R22, R35, R36). -/
def Obligations.ReadOnlyAndReservedOffsetsIgnoreWrites : Prop :=
  (∀ (s : State) (later : List Turn) (off : BitVec 10) (v : Word), s.turns = .write off 4 v :: later →
    off.extractLsb' 0 2 = 0#2 →
    (off = 0x004#10 ∨ off = 0x00C#10 ∨ off = 0x010#10 ∨ (0x030 ≤ off.toNat ∧ off.toNat < 0x200)) →
    step s = .next { s with turns := later }) ∧
  ∀ (s : State) (off : BitVec 10), off = 0x000#10 ∨ (0x030 ≤ off.toNat ∧ off.toNat < 0x200) → readReg off s = 0#32

/-- A 32-bit host read has no side effect at any offset, at any time: it hands over the register's value, and the model's own
`rdata` (notes/assumptions/7.md) apart, the block is unchanged (R69). -/
def Obligations.HostReadHasNoSideEffect : Prop :=
  ∀ (s : State) (later : List Turn) (off : BitVec 10), s.turns = .read off 4 :: later → off.extractLsb' 0 2 = 0#2 →
    step s = .next { s with turns := later, rdata := readReg off s }

/-- The fields of STATUS (R23): BUSY and FAULT follow ENG and are never 1 together, REJECT, BADOP and CAUSE stand in their
bits, CAUSE is 0 when FAULT = 0, and the other bits read 0. -/
def Obligations.StatusFields : Prop :=
  ∀ s : State, s.Inv →
    ((readReg 0x004#10 s).getLsbD 0 = true ↔ s.eng = .busy) ∧
    ((readReg 0x004#10 s).getLsbD 1 = true ↔ s.eng = .fault) ∧
    (readReg 0x004#10 s).getLsbD 2 = s.reject ∧
    (readReg 0x004#10 s).getLsbD 3 = s.badop ∧
    (readReg 0x004#10 s).extractLsb' 4 4 = 0#4 ∧
    (readReg 0x004#10 s).extractLsb' 8 4 = s.cause ∧
    (readReg 0x004#10 s).extractLsb' 12 20 = 0#20 ∧
    ((readReg 0x004#10 s).getLsbD 1 = false → (readReg 0x004#10 s).extractLsb' 8 4 = 0#4)

/-- The read-only pointer registers and the operand registers read as their fields, zero-extended (R21, R24 to R34). -/
def Obligations.RegistersReadZeroExtended : Prop :=
  ∀ s : State,
    (readReg 0x008#10 s).toNat = s.seqStart.toNat ∧ (readReg 0x00C#10 s).toNat = s.seqCur.toNat ∧
    (readReg 0x010#10 s).toNat = s.faultPtr.toNat ∧ (readReg 0x014#10 s).toNat = s.cmd.toNat ∧
    (readReg 0x018#10 s).toNat = s.madctl.toNat ∧ (readReg 0x01C#10 s).toNat = s.frmctr.toNat ∧
    (readReg 0x020#10 s).toNat = s.winX.toNat ∧ (readReg 0x024#10 s).toNat = s.winY.toNat ∧
    (readReg 0x028#10 s).toNat = s.winW.toNat ∧ (readReg 0x02C#10 s).toNat = s.winH.toNat ∧
    ∀ k : Fin 128, (readReg (BitVec.ofNat 10 (0x200 + 4 * k.val)) s).toNat = (s.argbuf[k]).toNat

/-- A host access that is not a 32-bit access at a multiple of 4 has no meaning, and the model refuses it (R67 (b), I5). -/
def Obligations.MisformedHostAccessIsRefused : Prop :=
  ∀ (s : State) (later : List Turn) (off : BitVec 10) (bytes : Nat) (v : Word),
    (bytes ≠ 4 ∨ off.extractLsb' 0 2 ≠ 0#2) →
    (s.turns = .write off bytes v :: later ∨ s.turns = .read off bytes :: later) →
    step s = .refused .hostAccessForm

/-- The window is the 1024 bytes at LCDSEQ_BASE: an offset of it is one host address, and no address outside reaches it
(R60). -/
def Obligations.WindowOffsetsAreBaseRelative : Prop :=
  ∀ (c : Params) (addr : Nat) (off : BitVec 10),
    windowOffset c addr = some off ↔ addr = 1024 * c.basePage + off.toNat

/-! ### Whole-machine rules -/

/-- Every step keeps the invariant: the lines follow the trace (R45), PEND is empty or closes as it must (R43, R102, R103,
R123), CAUSE is legal (R181), pointers stay within 0 to 65536 (R25), SEQMEM stays in canonical form. -/
def Obligations.StepKeepsInvariant : Prop := ∀ s t : State, s.Inv → step s = .next t → t.Inv

/-- Every byte goes out while CS_N = 0 (R103), and every wait begins with CS_N = 1 (R123), whatever step it is. -/
def Obligations.BytesInsideWaitsOutsideChipSelect : Prop :=
  ∀ s t : State, s.Inv → step s = .next t →
    (∀ b, t.tr = s.tr ++ [.tx b] → s.csN = .low ∧ t.csN = .low) ∧
    (∀ n, t.tr = s.tr ++ [.wait n] → s.csN = .high ∧ t.csN = .high)

/-- While BUSY, PEND as R43 gives it is non-empty and its last action, and no other, is `done` or a fault; otherwise it is
empty. -/
def Obligations.PendingListEndsInDoneOrFault : Prop :=
  ∀ s : State, s.Inv →
    (s.eng = .busy → ∃ init last, s.pendFull = init ++ [last] ∧
      (last = .done ∨ ∃ p, last = .fault 1#4 p) ∧
      ∀ a ∈ init, a ≠ .done ∧ (∀ c p, a ≠ .fault c p) ∧ (∀ p, a ≠ .seq p)) ∧
    (s.eng ≠ .busy → s.pendFull = [])

/-- From a state that meets the invariant a step always gives a next state, but for a host access of a form that has no
meaning (R67): no data in any register or in SEQMEM ends a run. -/
def Obligations.OnlyMisformedAccessStopsTheMachine : Prop :=
  ∀ s : State, s.Inv →
    (∃ t, step s = .next t) ∨
    (step s = .refused .hostAccessForm ∧
      ∃ off bytes, (bytes ≠ 4 ∨ off.extractLsb' 0 2 ≠ 0#2) ∧
        (s.nextTurn = .read off bytes ∨ ∃ v, s.nextTurn = .write off bytes v))

/-- No operation, host access, tick or reset changes SEQMEM or a parameter, and no host read shows SEQMEM (R8, R62). -/
def Obligations.SeqmemAndParametersNeverChange : Prop :=
  (∀ s t : State, step s = .next t → t.seqmem = s.seqmem ∧ t.cfg = s.cfg) ∧
  ∀ (s : State) (m : Memory) (off : BitVec 10), readReg off { s with seqmem := m } = readReg off s

/-- FAULT_PTR is written only by the fault action, and cleared only by reset (R26). -/
def Obligations.FaultPtrWrittenOnlyByFaultOrReset : Prop :=
  ∀ s t : State, step s = .next t →
    t.faultPtr = s.faultPtr ∨
    (s.eng = .busy ∧ s.nextTurn = .engine ∧ ∃ c rest, s.pend = .fault c t.faultPtr :: rest) ∨
    (t.faultPtr = 0#17 ∧ t.tr = s.tr ++ [.rst])

/-- SEQ_CUR is written only by reaching a descriptor, by a setcur or fault action, or by reset (R25, R111): no start of an
operation and no frame writes it. That the start of RUN_SEQ (R110) does not is the model's reading of R25, which sets SP there
and says that CUR shows SP (notes/assumptions/9.md). -/
def Obligations.SeqCurWrittenOnlyByInterpreterOrReset : Prop :=
  ∀ s t : State, step s = .next t →
    t.seqCur = s.seqCur ∨
    (s.eng = .busy ∧ s.nextTurn = .engine ∧ ∃ a rest, s.pend = a :: rest ∧
      (a = .seq t.seqCur ∨ a = .setcur t.seqCur ∨ ∃ c, a = .fault c t.seqCur)) ∨
    (t.seqCur = 0#17 ∧ t.tr = s.tr ++ [.rst])

/-- REJECT and BADOP stay set until a CTRL write with ERRCLR, or reset (R186, R187, R230). -/
def Obligations.ErrorFlagsAreSticky : Prop :=
  ∀ s t : State, step s = .next t →
    ((s.reject = true ∧ t.reject = false) ∨ (s.badop = true ∧ t.badop = false)) →
    (∃ w, s.nextTurn.ctrlWord? = some w ∧ w.getLsbD 31 = false ∧ w.getLsbD 30 = true) ∨
    (t.tr = s.tr ++ [.rst] ∧
      (s.nextTurn = .rstN ∨ ∃ w, s.nextTurn.ctrlWord? = some w ∧ w.getLsbD 31 = true))

/-- A quiescent LCDSEQ emits no event until a reset; a start only makes it BUSY (R200). -/
def Obligations.QuiescentBlockEmitsNothing : Prop :=
  ∀ s t : State, s.quiescent = true → step s = .next t →
    t.tr = s.tr ∨
    (t.tr = s.tr ++ [.rst] ∧
      (s.nextTurn = .rstN ∨ ∃ w, s.nextTurn.ctrlWord? = some w ∧ w.getLsbD 31 = true))

/-- STAGE is never observable (R38, R101): two states that differ in STAGE alone step to the same outcome, STAGE apart. -/
def Obligations.StageIsNeverObservable : Prop :=
  ∀ s s' : State, s.withoutStage = s'.withoutStage →
    match step s, step s' with
    | .next t, .next t' => t.withoutStage = t'.withoutStage
    | .fault a, .fault b => a = b
    | .refused a, .refused b => a = b
    | _, _ => False

/-- Reading descriptors one at a time gives the same as computing PEND once at the start (R39): with PEND written out in full,
as R43 and R110 hold it, each step gives the same state, STAGE apart, which no one sees. -/
def Obligations.FetchingOneAtATimeRefinesWholeExpansion : Prop :=
  ∀ s t : State, s.Inv → step s = .next t →
    ∃ u, step s.unfolded = .next u ∧ u.unfolded.withoutStage = t.unfolded.withoutStage

/-- Once an operation is in flight, its events are settled: no turn of any agent but RST_N (a register write, a refused start, a
refused SRST, a read, a tick, in any interleaving) changes the trace it will have left when it ends (R39, R68 (c), R186,
R190, R191). -/
def Obligations.OperationInFlightIsUndisturbed : Prop :=
  ∀ s t : State, s.Inv → s.eng = .busy → s.nextTurn ≠ .rstN → step s = .next t → t.finalTrace = s.finalTrace

/-- Every operation ends (R112): after as many steps as PEND has actions and its holds have ticks, when no one else takes a
turn, ENG has left BUSY, PEND is empty and every event is in TR (R73).
It ends because, with the list of turns empty, the engine moves by itself and a tick comes in every wait
(notes/assumptions/2.md): the model's choice for R112 and R125, and one interleaving of those R191 allows. -/
def Obligations.OperationRunsToItsEnd : Prop :=
  ∀ s : State, s.Inv → s.eng = .busy → s.turns = [] → ∃ t : State,
    Host.Core.run Sys2Proof.core (stepsOf s.pendFull) s = .next t ∧
    t.eng ≠ .busy ∧ t.pend = [] ∧ t.tr = s.finalTrace

/-- A whole RUN_SEQ (R120, R124, R126): from IDLE, over K descriptors and a sentinel, the run ends in IDLE with exactly their
frames and waits appended to TR, in order, and SEQ_CUR at the sentinel, whatever follows it in SEQMEM.
It ends because, with the list of turns empty, the engine moves by itself and a tick comes in every wait
(notes/assumptions/2.md): the model's choice for R112 and R125, and one interleaving of those R191 allows. -/
def Obligations.RunSeqWholeRun : Prop :=
  ∀ (s : State) (v : Word) (e : Bool) (x : BitVec 26) (ds : List Instr), s.Inv → s.eng = .idle →
    s.turns = [.write 0x000#10 4 v] → decodeCtrl v = .runSeq e x →
    (∀ d ∈ ds, isCommand d = true ∧ d.wellFormed = true) →
    s.seqStart.toNat + (sequenceBytes ds).length + 1 ≤ s.cfg.seqBytes →
    s.seqmem.readBytes s.seqStart.toNat ((sequenceBytes ds).length + 1) = sequenceBytes ds ++ [0x00#8] →
    ∃ (k : Nat) (t : State), Host.Core.run Sys2Proof.core k s = .next t ∧ t.eng = .idle ∧ t.pend = [] ∧
      t.tr = s.tr ++ ds.flatMap descriptorEvents ∧
      t.seqCur.toNat = s.seqStart.toNat + (sequenceBytes ds).length

/-- A RUN_SEQ whose K descriptors are followed by one that does not fit in SEQMEM (R182, R183): the run ends in FAULT with
SEQ_OVERRUN, FAULT_PTR and SEQ_CUR at that descriptor, and exactly the frames and waits of those before it in TR.
It ends because, with the list of turns empty, the engine moves by itself and a tick comes in every wait
(notes/assumptions/2.md): the model's choice for R112 and R125, and one interleaving of those R191 allows. -/
def Obligations.RunSeqOverrunIsPrecise : Prop :=
  ∀ (s : State) (v : Word) (e : Bool) (x : BitVec 26) (ds : List Instr) (err : DecodeError), s.Inv → s.eng = .idle →
    s.turns = [.write 0x000#10 4 v] → decodeCtrl v = .runSeq e x →
    (∀ d ∈ ds, isCommand d = true ∧ d.wellFormed = true) →
    (ds ≠ [] → s.seqStart.toNat + (sequenceBytes ds).length ≤ s.cfg.seqBytes) →
    s.seqmem.readBytes s.seqStart.toNat (sequenceBytes ds).length = sequenceBytes ds →
    decodeDescriptor (bytesFrom s.cfg s.seqmem (s.seqStart.toNat + (sequenceBytes ds).length)) = .rejected err →
    ∃ (k : Nat) (t : State), Host.Core.run Sys2Proof.core k s = .next t ∧ t.eng = .fault ∧ t.pend = [] ∧ t.cause = 1#4 ∧
      t.tr = s.tr ++ ds.flatMap descriptorEvents ∧
      t.faultPtr.toNat = s.seqStart.toNat + (sequenceBytes ds).length ∧ t.seqCur = t.faultPtr

/-- A whole SEND_CMD (R114, R115): from IDLE the run ends in IDLE with the one frame of CMD.OPCODE and ARGBUF[0..ARGLEN-1] in
TR, and every register as it was, the flags ERRCLR clears and STAGE apart.
It ends because, with the list of turns empty, the engine moves by itself (notes/assumptions/2.md): the model's choice for
R111 and R112, and one interleaving of those R191 allows. -/
def Obligations.SendCmdWholeRun : Prop :=
  ∀ (s : State) (v : Word) (e : Bool) (x : BitVec 26), s.Inv → s.eng = .idle →
    s.turns = [.write 0x000#10 4 v] → decodeCtrl v = .sendCmd e x →
    ∃ st : Buffer, Host.Core.run Sys2Proof.core (s.cmdArglen + 7) s = .next
      { s with
        turns := [], reject := !e && s.reject, badop := !e && s.badop, stage := st,
        tr := s.tr ++ [.cs .low, .dc .low, .tx (s.cmd.extractLsb' 0 8), .dc .high] ++
          (s.argbuf.toList.take s.cmdArglen).map .tx ++ [.cs .high] }

/-- A whole CONFIGURE (R140, R141): from IDLE the run ends in IDLE with the orientation frame and then the frame-rate frame in
TR, and every register as it was, the flags ERRCLR clears and STAGE apart.
It ends because, with the list of turns empty, the engine moves by itself (notes/assumptions/2.md): the model's choice for
R111 and R112, and one interleaving of those R191 allows. -/
def Obligations.ConfigureWholeRun : Prop :=
  ∀ (s : State) (v : Word) (e : Bool) (x : BitVec 26), s.Inv → s.eng = .idle →
    s.turns = [.write 0x000#10 4 v] → decodeCtrl v = .configure e x →
    ∃ (k : Nat) (st : Buffer), Host.Core.run Sys2Proof.core k s = .next
      { s with
        turns := [], reject := !e && s.reject, badop := !e && s.badop, stage := st,
        tr := s.tr ++ [.cs .low, .dc .low, .tx s.cfg.opcMadctl, .dc .high, .tx s.madctl, .cs .high] ++
          [.cs .low, .dc .low, .tx s.cfg.opcFrmctr1, .dc .high, .tx (s.frmctr.extractLsb' 16 8),
            .tx (s.frmctr.extractLsb' 8 8)] ++
          (if s.frmctr.extractLsb' 0 8 = 0xFF#8 then [] else [.tx (s.frmctr.extractLsb' 0 8)]) ++ [.cs .high] }

/-- A whole SET_WINDOW (R142, R143, R144): from IDLE the run ends in IDLE with the row-axis frame and then the column-axis frame in
TR, in two chip-select windows, with the ends (X + W - 1) mod 2^16 and (Y + H - 1) mod 2^16, and every register as it was,
the flags ERRCLR clears and STAGE apart.
It ends because, with the list of turns empty, the engine moves by itself (notes/assumptions/2.md): the model's choice for
R111 and R112, and one interleaving of those R191 allows. -/
def Obligations.SetWindowWholeRun : Prop :=
  ∀ (s : State) (v : Word) (e : Bool) (x : BitVec 26), s.Inv → s.eng = .idle →
    s.turns = [.write 0x000#10 4 v] → decodeCtrl v = .setWindow e x →
    ∃ (st : Buffer) (xe ye : BitVec 16),
      xe.toNat = (s.winX.toNat + s.winW.toNat + 65535) % 65536 ∧
      ye.toNat = (s.winY.toNat + s.winH.toNat + 65535) % 65536 ∧
      Host.Core.run Sys2Proof.core 20 s = .next
        { s with
          turns := [], reject := !e && s.reject, badop := !e && s.badop, stage := st,
          tr := s.tr ++
            [.cs .low, .dc .low, .tx s.cfg.opcRowset, .dc .high,
              .tx (s.winX.extractLsb' 8 8), .tx (s.winX.extractLsb' 0 8),
              .tx (xe.extractLsb' 8 8), .tx (xe.extractLsb' 0 8), .cs .high] ++
            [.cs .low, .dc .low, .tx s.cfg.opcColset, .dc .high,
              .tx (s.winY.extractLsb' 8 8), .tx (s.winY.extractLsb' 0 8),
              .tx (ye.extractLsb' 8 8), .tx (ye.extractLsb' 0 8), .cs .high] }

/-- A whole FILL (R160, R163, R164): from IDLE the run ends in IDLE, with one CS(0) and one CS(1) in TR, and between them the
memory-write opcode with DC = 0 and exactly 2 * W * H data bytes with DC = 1, those of `FillPixelAtItsPlace`; every
register and STAGE are as they were, the flags ERRCLR clears apart.
It ends because, with the list of turns empty, the engine moves by itself (notes/assumptions/2.md): the model's choice for
R111 and R112, and one interleaving of those R191 allows. -/
def Obligations.FillWholeRun : Prop :=
  ∀ (s : State) (v : Word) (e : Bool) (x : BitVec 26), s.Inv → s.eng = .idle →
    s.turns = [.write 0x000#10 4 v] → decodeCtrl v = .fill e x →
    (fillBytes s).length = 2 * s.winW.toNat * s.winH.toNat ∧
    Host.Core.run Sys2Proof.core (2 * s.winW.toNat * s.winH.toNat + 7) s = .next
      { s with
        turns := [], reject := !e && s.reject, badop := !e && s.badop,
        tr := s.tr ++ [.cs .low, .dc .low, .tx s.cfg.opcRamwr, .dc .high] ++ (fillBytes s).map .tx ++ [.cs .high] }
end

