-- ==== Sys2Proof/Laws/Decode.lean ====
section
/-! SUPPORT. The decoder and the encoder, one lemma per function (spec/30_encoding.md R81, R83, R84, R87). -/

namespace Sys2Proof

@[simp] theorem lenFlagsDelay_byte (d : Bool) (n : Nat) : lenFlagsDelay (lenFlagsByte d n) = d :=
  (BitVec.getLsbD_append (x := BitVec.ofBool d) (y := BitVec.ofNat 7 n)).trans (by simp)

theorem lenFlagsCount_byte (d : Bool) (n : Nat) (h : n ≤ maxArgs) :
    lenFlagsCount (lenFlagsByte d n) = n := by
  have : lenFlagsByte d n = BitVec.ofBool d ++ BitVec.ofNat 7 n := rfl
  rw [lenFlagsCount, this, BitVec.extractLsb'_append_eq_right]
  simp [maxArgs] at *
  omega

theorem lenFlagsCount_le (lf : Byte) : lenFlagsCount lf ≤ maxArgs := by
  have := (lf.extractLsb' 0 7).isLt
  unfold lenFlagsCount maxArgs
  omega

@[simp] theorem decodeDescriptor_nil : decodeDescriptor [] = .rejected .opcodeOutside := rfl

@[simp] theorem decodeDescriptor_end (rest : List Byte) :
    decodeDescriptor (0#8 :: rest) = .accepted .endSeq rest := rfl

theorem decodeDescriptor_body (opc lf : Byte) (body : List Byte) (h : opc ≠ 0#8) :
    decodeDescriptor (opc :: lf :: body) = decodeBody opc lf body := by
  simp [decodeDescriptor, h]

/-- What a descriptor can decode to: END, CMD or CMDD, each well-formed, with the bytes it was read from (R84). -/
theorem decodeDescriptor_cases {bs rest : List Byte} {i : Instr}
    (h : decodeDescriptor bs = .accepted i rest) :
    (i = .endSeq ∧ bs = 0#8 :: rest) ∨
    (∃ opc lf args, i = .cmd opc args ∧ opc ≠ 0#8 ∧ lenFlagsDelay lf = false ∧
      args.length = lenFlagsCount lf ∧ bs = opc :: lf :: (args ++ rest)) ∨
    (∃ opc lf args ms, i = .cmdd opc args ms ∧ opc ≠ 0#8 ∧ lenFlagsDelay lf = true ∧
      args.length = lenFlagsCount lf ∧ bs = opc :: lf :: (args ++ ms :: rest)) := by
  match bs with
  | [] => simp at h
  | [opc] =>
    by_cases ho : opc = 0#8
    · subst ho
      simp only [decodeDescriptor_end, Decoded.accepted.injEq] at h
      exact .inl ⟨h.1.symm, by rw [h.2]⟩
    · simp [decodeDescriptor, ho] at h
  | opc :: lf :: body =>
    by_cases ho : opc = 0#8
    · subst ho
      simp only [decodeDescriptor_end, Decoded.accepted.injEq] at h
      exact .inl ⟨h.1.symm, by rw [h.2]⟩
    · rw [decodeDescriptor_body _ _ _ ho] at h
      unfold decodeBody at h
      by_cases hn : (body.take (lenFlagsCount lf)).length < lenFlagsCount lf
      · rw [if_pos hn] at h
        cases h
      · have hlen : (body.take (lenFlagsCount lf)).length = lenFlagsCount lf :=
          le_antisymm (by simp) (not_lt.mp hn)
        rw [if_neg hn] at h
        by_cases hd : lenFlagsDelay lf = true
        · rw [if_pos hd] at h
          split at h
          · cases h
          · rename_i ms r hdrop
            simp only [Decoded.accepted.injEq] at h
            obtain ⟨rfl, rfl⟩ := h
            refine .inr (.inr ⟨opc, lf, _, ms, rfl, ho, hd, hlen, ?_⟩)
            rw [← hdrop, List.take_append_drop]
        · rw [if_neg hd] at h
          simp only [Decoded.accepted.injEq] at h
          obtain ⟨rfl, rfl⟩ := h
          refine .inr (.inl ⟨opc, lf, _, rfl, ho, by simpa using hd, hlen, ?_⟩)
          rw [List.take_append_drop]

theorem decodeBody_cmd (opc lf : Byte) (args rest : List Byte) (hd : lenFlagsDelay lf = false)
    (hn : args.length = lenFlagsCount lf) :
    decodeBody opc lf (args ++ rest) = .accepted (.cmd opc args) rest := by
  simp [decodeBody, hd, ← hn]

theorem decodeBody_cmdd (opc lf ms : Byte) (args rest : List Byte) (hd : lenFlagsDelay lf = true)
    (hn : args.length = lenFlagsCount lf) :
    decodeBody opc lf (args ++ ms :: rest) = .accepted (.cmdd opc args ms) rest := by
  simp [decodeBody, hd, ← hn]

/-- What decodes, decodes the same with more bytes after it. -/
theorem decodeDescriptor_append {bs rest : List Byte} {i : Instr} (more : List Byte)
    (h : decodeDescriptor bs = .accepted i rest) :
    decodeDescriptor (bs ++ more) = .accepted i (rest ++ more) := by
  rcases decodeDescriptor_cases h with ⟨rfl, rfl⟩ | ⟨opc, lf, args, rfl, ho, hd, hl, rfl⟩ |
    ⟨opc, lf, args, ms, rfl, ho, hd, hl, rfl⟩
  · rfl
  · simp only [List.cons_append, List.append_assoc]
    rw [decodeDescriptor_body _ _ _ ho, decodeBody_cmd _ _ _ _ hd hl]
  · simp only [List.cons_append, List.append_assoc]
    rw [decodeDescriptor_body _ _ _ ho, decodeBody_cmdd _ _ _ _ _ hd hl]

/-- The first 130 bytes are enough to decode a descriptor (R91). -/
theorem decodeDescriptor_take {bs rest : List Byte} {i : Instr} (h : decodeDescriptor bs = .accepted i rest) :
    ∃ r, decodeDescriptor (bs.take maxDescriptor) = .accepted i r := by
  rcases decodeDescriptor_cases h with ⟨rfl, rfl⟩ | ⟨opc, lf, args, rfl, ho, hd, hl, rfl⟩ |
    ⟨opc, lf, args, ms, rfl, ho, hd, hl, rfl⟩
  · exact ⟨rest.take 129, rfl⟩
  · have := lenFlagsCount_le lf
    simp only [maxArgs] at this
    obtain ⟨k, hk⟩ : ∃ k, maxDescriptor = (args.length + k) + 1 + 1 :=
      ⟨128 - args.length, by simp only [maxDescriptor]; omega⟩
    rw [hk, List.take_succ_cons, List.take_succ_cons, List.take_append, List.take_of_length_le (by omega),
      decodeDescriptor_body _ _ _ ho, decodeBody_cmd _ _ _ _ hd hl]
    exact ⟨_, rfl⟩
  · have := lenFlagsCount_le lf
    simp only [maxArgs] at this
    obtain ⟨k, hk⟩ : ∃ k, maxDescriptor = (args.length + (k + 1)) + 1 + 1 :=
      ⟨127 - args.length, by simp only [maxDescriptor]; omega⟩
    rw [hk, List.take_succ_cons, List.take_succ_cons, List.take_append, List.take_of_length_le (by omega),
      Nat.add_sub_cancel_left, List.take_succ_cons, decodeDescriptor_body _ _ _ ho,
      decodeBody_cmdd _ _ _ _ _ hd hl]
    exact ⟨_, rfl⟩

/-! ### The fields of a CTRL word -/

/-- Bit `i` of a CTRL word with SRST = 0, by the field it lies in (R81). -/
theorem ctrlWord_getLsbD (e : Bool) (x : BitVec 26) (op : BitVec 4) (i : Nat) :
    (ctrlWord e x op).getLsbD i =
      if i < 4 then op.getLsbD i
      else if i < 30 then x.getLsbD (i - 4)
      else (BitVec.ofBool e).getLsbD (i - 30) := by
  have h₁ : (ctrlWord e x op).getLsbD i =
      (0#1 ++ (BitVec.ofBool e ++ (x ++ op)) : BitVec (1 + (1 + (26 + 4)))).getLsbD i := rfl
  rw [h₁, BitVec.getLsbD_append, BitVec.getLsbD_append, BitVec.getLsbD_append]
  have h₂ : i - 4 < 26 ↔ i < 30 := by omega
  split_ifs <;> first | rfl | omega | (simp; omega)

@[simp] theorem ctrlWord_srst (e : Bool) (x : BitVec 26) (op : BitVec 4) :
    (ctrlWord e x op).getLsbD 31 = false := by
  simp only [ctrlWord_getLsbD]
  simp

@[simp] theorem ctrlWord_errclr (e : Bool) (x : BitVec 26) (op : BitVec 4) :
    (ctrlWord e x op).getLsbD 30 = e := by
  simp only [ctrlWord_getLsbD]
  simp

@[simp] theorem ctrlWord_reserved (e : Bool) (x : BitVec 26) (op : BitVec 4) :
    (ctrlWord e x op).extractLsb' 4 26 = x := by
  apply BitVec.eq_of_getLsbD_eq
  intro i hi
  have : 4 + i < 30 := by omega
  simp [ctrlWord_getLsbD, hi, this]

@[simp] theorem ctrlWord_op (e : Bool) (x : BitVec 26) (op : BitVec 4) :
    (ctrlWord e x op).extractLsb' 0 4 = op := by
  apply BitVec.eq_of_getLsbD_eq
  intro i hi
  simp [ctrlWord_getLsbD, hi]

end Sys2Proof
end

