-- ==== Sys2Proof/Laws/State.lean ====
section
/-! SUPPORT. One lemma per field per state update, true by rfl. -/

namespace Sys2Proof.Machine

/-! ### `setReject` -/

@[simp] theorem setReject_cfg (s : State) : (setReject s).cfg = s.cfg := rfl
@[simp] theorem setReject_seqmem (s : State) : (setReject s).seqmem = s.seqmem := rfl
@[simp] theorem setReject_eng (s : State) : (setReject s).eng = s.eng := rfl
@[simp] theorem setReject_pend (s : State) : (setReject s).pend = s.pend := rfl
@[simp] theorem setReject_sp (s : State) : (setReject s).sp = s.sp := rfl
@[simp] theorem setReject_reject (s : State) : (setReject s).reject = true := rfl
@[simp] theorem setReject_badop (s : State) : (setReject s).badop = s.badop := rfl
@[simp] theorem setReject_cause (s : State) : (setReject s).cause = s.cause := rfl
@[simp] theorem setReject_seqStart (s : State) : (setReject s).seqStart = s.seqStart := rfl
@[simp] theorem setReject_seqCur (s : State) : (setReject s).seqCur = s.seqCur := rfl
@[simp] theorem setReject_faultPtr (s : State) : (setReject s).faultPtr = s.faultPtr := rfl
@[simp] theorem setReject_cmd (s : State) : (setReject s).cmd = s.cmd := rfl
@[simp] theorem setReject_madctl (s : State) : (setReject s).madctl = s.madctl := rfl
@[simp] theorem setReject_frmctr (s : State) : (setReject s).frmctr = s.frmctr := rfl
@[simp] theorem setReject_winX (s : State) : (setReject s).winX = s.winX := rfl
@[simp] theorem setReject_winY (s : State) : (setReject s).winY = s.winY := rfl
@[simp] theorem setReject_winW (s : State) : (setReject s).winW = s.winW := rfl
@[simp] theorem setReject_winH (s : State) : (setReject s).winH = s.winH := rfl
@[simp] theorem setReject_argbuf (s : State) : (setReject s).argbuf = s.argbuf := rfl
@[simp] theorem setReject_stage (s : State) : (setReject s).stage = s.stage := rfl
@[simp] theorem setReject_csN (s : State) : (setReject s).csN = s.csN := rfl
@[simp] theorem setReject_dc (s : State) : (setReject s).dc = s.dc := rfl
@[simp] theorem setReject_tr (s : State) : (setReject s).tr = s.tr := rfl
@[simp] theorem setReject_turns (s : State) : (setReject s).turns = s.turns := rfl
@[simp] theorem setReject_rdata (s : State) : (setReject s).rdata = s.rdata := rfl
@[simp] theorem setReject_draws (s : State) : (setReject s).draws = s.draws := rfl

/-! ### `setBadop` -/

@[simp] theorem setBadop_cfg (s : State) : (setBadop s).cfg = s.cfg := rfl
@[simp] theorem setBadop_seqmem (s : State) : (setBadop s).seqmem = s.seqmem := rfl
@[simp] theorem setBadop_eng (s : State) : (setBadop s).eng = s.eng := rfl
@[simp] theorem setBadop_pend (s : State) : (setBadop s).pend = s.pend := rfl
@[simp] theorem setBadop_sp (s : State) : (setBadop s).sp = s.sp := rfl
@[simp] theorem setBadop_reject (s : State) : (setBadop s).reject = s.reject := rfl
@[simp] theorem setBadop_badop (s : State) : (setBadop s).badop = true := rfl
@[simp] theorem setBadop_cause (s : State) : (setBadop s).cause = s.cause := rfl
@[simp] theorem setBadop_seqStart (s : State) : (setBadop s).seqStart = s.seqStart := rfl
@[simp] theorem setBadop_seqCur (s : State) : (setBadop s).seqCur = s.seqCur := rfl
@[simp] theorem setBadop_faultPtr (s : State) : (setBadop s).faultPtr = s.faultPtr := rfl
@[simp] theorem setBadop_cmd (s : State) : (setBadop s).cmd = s.cmd := rfl
@[simp] theorem setBadop_madctl (s : State) : (setBadop s).madctl = s.madctl := rfl
@[simp] theorem setBadop_frmctr (s : State) : (setBadop s).frmctr = s.frmctr := rfl
@[simp] theorem setBadop_winX (s : State) : (setBadop s).winX = s.winX := rfl
@[simp] theorem setBadop_winY (s : State) : (setBadop s).winY = s.winY := rfl
@[simp] theorem setBadop_winW (s : State) : (setBadop s).winW = s.winW := rfl
@[simp] theorem setBadop_winH (s : State) : (setBadop s).winH = s.winH := rfl
@[simp] theorem setBadop_argbuf (s : State) : (setBadop s).argbuf = s.argbuf := rfl
@[simp] theorem setBadop_stage (s : State) : (setBadop s).stage = s.stage := rfl
@[simp] theorem setBadop_csN (s : State) : (setBadop s).csN = s.csN := rfl
@[simp] theorem setBadop_dc (s : State) : (setBadop s).dc = s.dc := rfl
@[simp] theorem setBadop_tr (s : State) : (setBadop s).tr = s.tr := rfl
@[simp] theorem setBadop_turns (s : State) : (setBadop s).turns = s.turns := rfl
@[simp] theorem setBadop_rdata (s : State) : (setBadop s).rdata = s.rdata := rfl
@[simp] theorem setBadop_draws (s : State) : (setBadop s).draws = s.draws := rfl

/-! ### `clearErrors` -/

@[simp] theorem clearErrors_cfg (s : State) : (clearErrors s).cfg = s.cfg := rfl
@[simp] theorem clearErrors_seqmem (s : State) : (clearErrors s).seqmem = s.seqmem := rfl
@[simp] theorem clearErrors_eng (s : State) : (clearErrors s).eng = s.eng := rfl
@[simp] theorem clearErrors_pend (s : State) : (clearErrors s).pend = s.pend := rfl
@[simp] theorem clearErrors_sp (s : State) : (clearErrors s).sp = s.sp := rfl
@[simp] theorem clearErrors_reject (s : State) : (clearErrors s).reject = false := rfl
@[simp] theorem clearErrors_badop (s : State) : (clearErrors s).badop = false := rfl
@[simp] theorem clearErrors_cause (s : State) : (clearErrors s).cause = s.cause := rfl
@[simp] theorem clearErrors_seqStart (s : State) : (clearErrors s).seqStart = s.seqStart := rfl
@[simp] theorem clearErrors_seqCur (s : State) : (clearErrors s).seqCur = s.seqCur := rfl
@[simp] theorem clearErrors_faultPtr (s : State) : (clearErrors s).faultPtr = s.faultPtr := rfl
@[simp] theorem clearErrors_cmd (s : State) : (clearErrors s).cmd = s.cmd := rfl
@[simp] theorem clearErrors_madctl (s : State) : (clearErrors s).madctl = s.madctl := rfl
@[simp] theorem clearErrors_frmctr (s : State) : (clearErrors s).frmctr = s.frmctr := rfl
@[simp] theorem clearErrors_winX (s : State) : (clearErrors s).winX = s.winX := rfl
@[simp] theorem clearErrors_winY (s : State) : (clearErrors s).winY = s.winY := rfl
@[simp] theorem clearErrors_winW (s : State) : (clearErrors s).winW = s.winW := rfl
@[simp] theorem clearErrors_winH (s : State) : (clearErrors s).winH = s.winH := rfl
@[simp] theorem clearErrors_argbuf (s : State) : (clearErrors s).argbuf = s.argbuf := rfl
@[simp] theorem clearErrors_stage (s : State) : (clearErrors s).stage = s.stage := rfl
@[simp] theorem clearErrors_csN (s : State) : (clearErrors s).csN = s.csN := rfl
@[simp] theorem clearErrors_dc (s : State) : (clearErrors s).dc = s.dc := rfl
@[simp] theorem clearErrors_tr (s : State) : (clearErrors s).tr = s.tr := rfl
@[simp] theorem clearErrors_turns (s : State) : (clearErrors s).turns = s.turns := rfl
@[simp] theorem clearErrors_rdata (s : State) : (clearErrors s).rdata = s.rdata := rfl
@[simp] theorem clearErrors_draws (s : State) : (clearErrors s).draws = s.draws := rfl

/-! ### `setCur` -/

@[simp] theorem setCur_cfg (p : SeqPtr) (s : State) : (setCur p s).cfg = s.cfg := rfl
@[simp] theorem setCur_seqmem (p : SeqPtr) (s : State) : (setCur p s).seqmem = s.seqmem := rfl
@[simp] theorem setCur_eng (p : SeqPtr) (s : State) : (setCur p s).eng = s.eng := rfl
@[simp] theorem setCur_pend (p : SeqPtr) (s : State) : (setCur p s).pend = s.pend := rfl
@[simp] theorem setCur_sp (p : SeqPtr) (s : State) : (setCur p s).sp = p := rfl
@[simp] theorem setCur_reject (p : SeqPtr) (s : State) : (setCur p s).reject = s.reject := rfl
@[simp] theorem setCur_badop (p : SeqPtr) (s : State) : (setCur p s).badop = s.badop := rfl
@[simp] theorem setCur_cause (p : SeqPtr) (s : State) : (setCur p s).cause = s.cause := rfl
@[simp] theorem setCur_seqStart (p : SeqPtr) (s : State) : (setCur p s).seqStart = s.seqStart := rfl
@[simp] theorem setCur_seqCur (p : SeqPtr) (s : State) : (setCur p s).seqCur = p := rfl
@[simp] theorem setCur_faultPtr (p : SeqPtr) (s : State) : (setCur p s).faultPtr = s.faultPtr := rfl
@[simp] theorem setCur_cmd (p : SeqPtr) (s : State) : (setCur p s).cmd = s.cmd := rfl
@[simp] theorem setCur_madctl (p : SeqPtr) (s : State) : (setCur p s).madctl = s.madctl := rfl
@[simp] theorem setCur_frmctr (p : SeqPtr) (s : State) : (setCur p s).frmctr = s.frmctr := rfl
@[simp] theorem setCur_winX (p : SeqPtr) (s : State) : (setCur p s).winX = s.winX := rfl
@[simp] theorem setCur_winY (p : SeqPtr) (s : State) : (setCur p s).winY = s.winY := rfl
@[simp] theorem setCur_winW (p : SeqPtr) (s : State) : (setCur p s).winW = s.winW := rfl
@[simp] theorem setCur_winH (p : SeqPtr) (s : State) : (setCur p s).winH = s.winH := rfl
@[simp] theorem setCur_argbuf (p : SeqPtr) (s : State) : (setCur p s).argbuf = s.argbuf := rfl
@[simp] theorem setCur_stage (p : SeqPtr) (s : State) : (setCur p s).stage = s.stage := rfl
@[simp] theorem setCur_csN (p : SeqPtr) (s : State) : (setCur p s).csN = s.csN := rfl
@[simp] theorem setCur_dc (p : SeqPtr) (s : State) : (setCur p s).dc = s.dc := rfl
@[simp] theorem setCur_tr (p : SeqPtr) (s : State) : (setCur p s).tr = s.tr := rfl
@[simp] theorem setCur_turns (p : SeqPtr) (s : State) : (setCur p s).turns = s.turns := rfl
@[simp] theorem setCur_rdata (p : SeqPtr) (s : State) : (setCur p s).rdata = s.rdata := rfl
@[simp] theorem setCur_draws (p : SeqPtr) (s : State) : (setCur p s).draws = s.draws := rfl

/-! ### `takeFault` -/

@[simp] theorem takeFault_cfg (c : BitVec 4) (p : SeqPtr) (s : State) : (takeFault c p s).cfg = s.cfg := rfl
@[simp] theorem takeFault_seqmem (c : BitVec 4) (p : SeqPtr) (s : State) : (takeFault c p s).seqmem = s.seqmem := rfl
@[simp] theorem takeFault_eng (c : BitVec 4) (p : SeqPtr) (s : State) : (takeFault c p s).eng = .fault := rfl
@[simp] theorem takeFault_pend (c : BitVec 4) (p : SeqPtr) (s : State) : (takeFault c p s).pend = [] := rfl
@[simp] theorem takeFault_sp (c : BitVec 4) (p : SeqPtr) (s : State) : (takeFault c p s).sp = p := rfl
@[simp] theorem takeFault_reject (c : BitVec 4) (p : SeqPtr) (s : State) : (takeFault c p s).reject = s.reject := rfl
@[simp] theorem takeFault_badop (c : BitVec 4) (p : SeqPtr) (s : State) : (takeFault c p s).badop = s.badop := rfl
@[simp] theorem takeFault_cause (c : BitVec 4) (p : SeqPtr) (s : State) : (takeFault c p s).cause = c := rfl
@[simp] theorem takeFault_seqStart (c : BitVec 4) (p : SeqPtr) (s : State) : (takeFault c p s).seqStart = s.seqStart := rfl
@[simp] theorem takeFault_seqCur (c : BitVec 4) (p : SeqPtr) (s : State) : (takeFault c p s).seqCur = p := rfl
@[simp] theorem takeFault_faultPtr (c : BitVec 4) (p : SeqPtr) (s : State) : (takeFault c p s).faultPtr = p := rfl
@[simp] theorem takeFault_cmd (c : BitVec 4) (p : SeqPtr) (s : State) : (takeFault c p s).cmd = s.cmd := rfl
@[simp] theorem takeFault_madctl (c : BitVec 4) (p : SeqPtr) (s : State) : (takeFault c p s).madctl = s.madctl := rfl
@[simp] theorem takeFault_frmctr (c : BitVec 4) (p : SeqPtr) (s : State) : (takeFault c p s).frmctr = s.frmctr := rfl
@[simp] theorem takeFault_winX (c : BitVec 4) (p : SeqPtr) (s : State) : (takeFault c p s).winX = s.winX := rfl
@[simp] theorem takeFault_winY (c : BitVec 4) (p : SeqPtr) (s : State) : (takeFault c p s).winY = s.winY := rfl
@[simp] theorem takeFault_winW (c : BitVec 4) (p : SeqPtr) (s : State) : (takeFault c p s).winW = s.winW := rfl
@[simp] theorem takeFault_winH (c : BitVec 4) (p : SeqPtr) (s : State) : (takeFault c p s).winH = s.winH := rfl
@[simp] theorem takeFault_argbuf (c : BitVec 4) (p : SeqPtr) (s : State) : (takeFault c p s).argbuf = s.argbuf := rfl
@[simp] theorem takeFault_stage (c : BitVec 4) (p : SeqPtr) (s : State) : (takeFault c p s).stage = s.stage := rfl
@[simp] theorem takeFault_csN (c : BitVec 4) (p : SeqPtr) (s : State) : (takeFault c p s).csN = s.csN := rfl
@[simp] theorem takeFault_dc (c : BitVec 4) (p : SeqPtr) (s : State) : (takeFault c p s).dc = s.dc := rfl
@[simp] theorem takeFault_tr (c : BitVec 4) (p : SeqPtr) (s : State) : (takeFault c p s).tr = s.tr := rfl
@[simp] theorem takeFault_turns (c : BitVec 4) (p : SeqPtr) (s : State) : (takeFault c p s).turns = s.turns := rfl
@[simp] theorem takeFault_rdata (c : BitVec 4) (p : SeqPtr) (s : State) : (takeFault c p s).rdata = s.rdata := rfl
@[simp] theorem takeFault_draws (c : BitVec 4) (p : SeqPtr) (s : State) : (takeFault c p s).draws = s.draws := rfl

/-! ### `accept` -/

@[simp] theorem accept_cfg (x : Buffer × List Action) (s : State) : (accept x s).cfg = s.cfg := rfl
@[simp] theorem accept_seqmem (x : Buffer × List Action) (s : State) : (accept x s).seqmem = s.seqmem := rfl
@[simp] theorem accept_eng (x : Buffer × List Action) (s : State) : (accept x s).eng = .busy := rfl
@[simp] theorem accept_pend (x : Buffer × List Action) (s : State) : (accept x s).pend = x.2 ++ [.done] := rfl
@[simp] theorem accept_sp (x : Buffer × List Action) (s : State) : (accept x s).sp = s.sp := rfl
@[simp] theorem accept_reject (x : Buffer × List Action) (s : State) : (accept x s).reject = s.reject := rfl
@[simp] theorem accept_badop (x : Buffer × List Action) (s : State) : (accept x s).badop = s.badop := rfl
@[simp] theorem accept_cause (x : Buffer × List Action) (s : State) : (accept x s).cause = s.cause := rfl
@[simp] theorem accept_seqStart (x : Buffer × List Action) (s : State) : (accept x s).seqStart = s.seqStart := rfl
@[simp] theorem accept_seqCur (x : Buffer × List Action) (s : State) : (accept x s).seqCur = s.seqCur := rfl
@[simp] theorem accept_faultPtr (x : Buffer × List Action) (s : State) : (accept x s).faultPtr = s.faultPtr := rfl
@[simp] theorem accept_cmd (x : Buffer × List Action) (s : State) : (accept x s).cmd = s.cmd := rfl
@[simp] theorem accept_madctl (x : Buffer × List Action) (s : State) : (accept x s).madctl = s.madctl := rfl
@[simp] theorem accept_frmctr (x : Buffer × List Action) (s : State) : (accept x s).frmctr = s.frmctr := rfl
@[simp] theorem accept_winX (x : Buffer × List Action) (s : State) : (accept x s).winX = s.winX := rfl
@[simp] theorem accept_winY (x : Buffer × List Action) (s : State) : (accept x s).winY = s.winY := rfl
@[simp] theorem accept_winW (x : Buffer × List Action) (s : State) : (accept x s).winW = s.winW := rfl
@[simp] theorem accept_winH (x : Buffer × List Action) (s : State) : (accept x s).winH = s.winH := rfl
@[simp] theorem accept_argbuf (x : Buffer × List Action) (s : State) : (accept x s).argbuf = s.argbuf := rfl
@[simp] theorem accept_stage (x : Buffer × List Action) (s : State) : (accept x s).stage = x.1 := rfl
@[simp] theorem accept_csN (x : Buffer × List Action) (s : State) : (accept x s).csN = s.csN := rfl
@[simp] theorem accept_dc (x : Buffer × List Action) (s : State) : (accept x s).dc = s.dc := rfl
@[simp] theorem accept_tr (x : Buffer × List Action) (s : State) : (accept x s).tr = s.tr := rfl
@[simp] theorem accept_turns (x : Buffer × List Action) (s : State) : (accept x s).turns = s.turns := rfl
@[simp] theorem accept_rdata (x : Buffer × List Action) (s : State) : (accept x s).rdata = s.rdata := rfl
@[simp] theorem accept_draws (x : Buffer × List Action) (s : State) : (accept x s).draws = s.draws := rfl

/-! ### `hostRead` -/

@[simp] theorem hostRead_cfg (off : BitVec 10) (s : State) : (hostRead off s).cfg = s.cfg := rfl
@[simp] theorem hostRead_seqmem (off : BitVec 10) (s : State) : (hostRead off s).seqmem = s.seqmem := rfl
@[simp] theorem hostRead_eng (off : BitVec 10) (s : State) : (hostRead off s).eng = s.eng := rfl
@[simp] theorem hostRead_pend (off : BitVec 10) (s : State) : (hostRead off s).pend = s.pend := rfl
@[simp] theorem hostRead_sp (off : BitVec 10) (s : State) : (hostRead off s).sp = s.sp := rfl
@[simp] theorem hostRead_reject (off : BitVec 10) (s : State) : (hostRead off s).reject = s.reject := rfl
@[simp] theorem hostRead_badop (off : BitVec 10) (s : State) : (hostRead off s).badop = s.badop := rfl
@[simp] theorem hostRead_cause (off : BitVec 10) (s : State) : (hostRead off s).cause = s.cause := rfl
@[simp] theorem hostRead_seqStart (off : BitVec 10) (s : State) : (hostRead off s).seqStart = s.seqStart := rfl
@[simp] theorem hostRead_seqCur (off : BitVec 10) (s : State) : (hostRead off s).seqCur = s.seqCur := rfl
@[simp] theorem hostRead_faultPtr (off : BitVec 10) (s : State) : (hostRead off s).faultPtr = s.faultPtr := rfl
@[simp] theorem hostRead_cmd (off : BitVec 10) (s : State) : (hostRead off s).cmd = s.cmd := rfl
@[simp] theorem hostRead_madctl (off : BitVec 10) (s : State) : (hostRead off s).madctl = s.madctl := rfl
@[simp] theorem hostRead_frmctr (off : BitVec 10) (s : State) : (hostRead off s).frmctr = s.frmctr := rfl
@[simp] theorem hostRead_winX (off : BitVec 10) (s : State) : (hostRead off s).winX = s.winX := rfl
@[simp] theorem hostRead_winY (off : BitVec 10) (s : State) : (hostRead off s).winY = s.winY := rfl
@[simp] theorem hostRead_winW (off : BitVec 10) (s : State) : (hostRead off s).winW = s.winW := rfl
@[simp] theorem hostRead_winH (off : BitVec 10) (s : State) : (hostRead off s).winH = s.winH := rfl
@[simp] theorem hostRead_argbuf (off : BitVec 10) (s : State) : (hostRead off s).argbuf = s.argbuf := rfl
@[simp] theorem hostRead_stage (off : BitVec 10) (s : State) : (hostRead off s).stage = s.stage := rfl
@[simp] theorem hostRead_csN (off : BitVec 10) (s : State) : (hostRead off s).csN = s.csN := rfl
@[simp] theorem hostRead_dc (off : BitVec 10) (s : State) : (hostRead off s).dc = s.dc := rfl
@[simp] theorem hostRead_tr (off : BitVec 10) (s : State) : (hostRead off s).tr = s.tr := rfl
@[simp] theorem hostRead_turns (off : BitVec 10) (s : State) : (hostRead off s).turns = s.turns := rfl
@[simp] theorem hostRead_rdata (off : BitVec 10) (s : State) : (hostRead off s).rdata = readReg off s := rfl
@[simp] theorem hostRead_draws (off : BitVec 10) (s : State) : (hostRead off s).draws = s.draws := rfl

/-! ### `overrunAtSp` -/

@[simp] theorem overrunAtSp_cfg (s : State) : (overrunAtSp s).cfg = s.cfg := rfl
@[simp] theorem overrunAtSp_seqmem (s : State) : (overrunAtSp s).seqmem = s.seqmem := rfl
@[simp] theorem overrunAtSp_eng (s : State) : (overrunAtSp s).eng = s.eng := rfl
@[simp] theorem overrunAtSp_pend (s : State) : (overrunAtSp s).pend = .fault seqOverrun s.sp :: s.pend := rfl
@[simp] theorem overrunAtSp_sp (s : State) : (overrunAtSp s).sp = s.sp := rfl
@[simp] theorem overrunAtSp_reject (s : State) : (overrunAtSp s).reject = s.reject := rfl
@[simp] theorem overrunAtSp_badop (s : State) : (overrunAtSp s).badop = s.badop := rfl
@[simp] theorem overrunAtSp_cause (s : State) : (overrunAtSp s).cause = s.cause := rfl
@[simp] theorem overrunAtSp_seqStart (s : State) : (overrunAtSp s).seqStart = s.seqStart := rfl
@[simp] theorem overrunAtSp_seqCur (s : State) : (overrunAtSp s).seqCur = s.sp := rfl
@[simp] theorem overrunAtSp_faultPtr (s : State) : (overrunAtSp s).faultPtr = s.faultPtr := rfl
@[simp] theorem overrunAtSp_cmd (s : State) : (overrunAtSp s).cmd = s.cmd := rfl
@[simp] theorem overrunAtSp_madctl (s : State) : (overrunAtSp s).madctl = s.madctl := rfl
@[simp] theorem overrunAtSp_frmctr (s : State) : (overrunAtSp s).frmctr = s.frmctr := rfl
@[simp] theorem overrunAtSp_winX (s : State) : (overrunAtSp s).winX = s.winX := rfl
@[simp] theorem overrunAtSp_winY (s : State) : (overrunAtSp s).winY = s.winY := rfl
@[simp] theorem overrunAtSp_winW (s : State) : (overrunAtSp s).winW = s.winW := rfl
@[simp] theorem overrunAtSp_winH (s : State) : (overrunAtSp s).winH = s.winH := rfl
@[simp] theorem overrunAtSp_argbuf (s : State) : (overrunAtSp s).argbuf = s.argbuf := rfl
@[simp] theorem overrunAtSp_stage (s : State) : (overrunAtSp s).stage = s.stage := rfl
@[simp] theorem overrunAtSp_csN (s : State) : (overrunAtSp s).csN = s.csN := rfl
@[simp] theorem overrunAtSp_dc (s : State) : (overrunAtSp s).dc = s.dc := rfl
@[simp] theorem overrunAtSp_tr (s : State) : (overrunAtSp s).tr = s.tr := rfl
@[simp] theorem overrunAtSp_turns (s : State) : (overrunAtSp s).turns = s.turns := rfl
@[simp] theorem overrunAtSp_rdata (s : State) : (overrunAtSp s).rdata = s.rdata := rfl
@[simp] theorem overrunAtSp_draws (s : State) : (overrunAtSp s).draws = s.draws := rfl

/-! ### `acceptRunSeq` -/

@[simp] theorem acceptRunSeq_cfg (s : State) : (acceptRunSeq s).cfg = s.cfg := rfl
@[simp] theorem acceptRunSeq_seqmem (s : State) : (acceptRunSeq s).seqmem = s.seqmem := rfl
@[simp] theorem acceptRunSeq_eng (s : State) : (acceptRunSeq s).eng = .busy := rfl
@[simp] theorem acceptRunSeq_pend (s : State) : (acceptRunSeq s).pend = [.seq (seqEntry s)] := rfl
@[simp] theorem acceptRunSeq_sp (s : State) : (acceptRunSeq s).sp = seqEntry s := rfl
@[simp] theorem acceptRunSeq_reject (s : State) : (acceptRunSeq s).reject = s.reject := rfl
@[simp] theorem acceptRunSeq_badop (s : State) : (acceptRunSeq s).badop = s.badop := rfl
@[simp] theorem acceptRunSeq_cause (s : State) : (acceptRunSeq s).cause = s.cause := rfl
@[simp] theorem acceptRunSeq_seqStart (s : State) : (acceptRunSeq s).seqStart = s.seqStart := rfl
@[simp] theorem acceptRunSeq_seqCur (s : State) : (acceptRunSeq s).seqCur = s.seqCur := rfl
@[simp] theorem acceptRunSeq_faultPtr (s : State) : (acceptRunSeq s).faultPtr = s.faultPtr := rfl
@[simp] theorem acceptRunSeq_cmd (s : State) : (acceptRunSeq s).cmd = s.cmd := rfl
@[simp] theorem acceptRunSeq_madctl (s : State) : (acceptRunSeq s).madctl = s.madctl := rfl
@[simp] theorem acceptRunSeq_frmctr (s : State) : (acceptRunSeq s).frmctr = s.frmctr := rfl
@[simp] theorem acceptRunSeq_winX (s : State) : (acceptRunSeq s).winX = s.winX := rfl
@[simp] theorem acceptRunSeq_winY (s : State) : (acceptRunSeq s).winY = s.winY := rfl
@[simp] theorem acceptRunSeq_winW (s : State) : (acceptRunSeq s).winW = s.winW := rfl
@[simp] theorem acceptRunSeq_winH (s : State) : (acceptRunSeq s).winH = s.winH := rfl
@[simp] theorem acceptRunSeq_argbuf (s : State) : (acceptRunSeq s).argbuf = s.argbuf := rfl
@[simp] theorem acceptRunSeq_stage (s : State) : (acceptRunSeq s).stage = s.stage := rfl
@[simp] theorem acceptRunSeq_csN (s : State) : (acceptRunSeq s).csN = s.csN := rfl
@[simp] theorem acceptRunSeq_dc (s : State) : (acceptRunSeq s).dc = s.dc := rfl
@[simp] theorem acceptRunSeq_tr (s : State) : (acceptRunSeq s).tr = s.tr := rfl
@[simp] theorem acceptRunSeq_turns (s : State) : (acceptRunSeq s).turns = s.turns := rfl
@[simp] theorem acceptRunSeq_rdata (s : State) : (acceptRunSeq s).rdata = s.rdata := rfl
@[simp] theorem acceptRunSeq_draws (s : State) : (acceptRunSeq s).draws = s.draws := rfl

/-! ### `resetAction` -/

@[simp] theorem resetAction_cfg (s : State) : (resetAction s).cfg = s.cfg := rfl
@[simp] theorem resetAction_seqmem (s : State) : (resetAction s).seqmem = s.seqmem := rfl
@[simp] theorem resetAction_eng (s : State) : (resetAction s).eng = .idle := rfl
@[simp] theorem resetAction_pend (s : State) : (resetAction s).pend = [] := rfl
@[simp] theorem resetAction_sp (s : State) : (resetAction s).sp = 0#17 := rfl
@[simp] theorem resetAction_reject (s : State) : (resetAction s).reject = false := rfl
@[simp] theorem resetAction_badop (s : State) : (resetAction s).badop = false := rfl
@[simp] theorem resetAction_cause (s : State) : (resetAction s).cause = 0#4 := rfl
@[simp] theorem resetAction_seqStart (s : State) : (resetAction s).seqStart = 0#16 := rfl
@[simp] theorem resetAction_seqCur (s : State) : (resetAction s).seqCur = 0#17 := rfl
@[simp] theorem resetAction_faultPtr (s : State) : (resetAction s).faultPtr = 0#17 := rfl
@[simp] theorem resetAction_cmd (s : State) : (resetAction s).cmd = 0#15 := rfl
@[simp] theorem resetAction_madctl (s : State) : (resetAction s).madctl = 0#8 := rfl
@[simp] theorem resetAction_frmctr (s : State) : (resetAction s).frmctr = 0#24 := rfl
@[simp] theorem resetAction_winX (s : State) : (resetAction s).winX = 0#16 := rfl
@[simp] theorem resetAction_winY (s : State) : (resetAction s).winY = 0#16 := rfl
@[simp] theorem resetAction_winW (s : State) : (resetAction s).winW = 0#16 := rfl
@[simp] theorem resetAction_winH (s : State) : (resetAction s).winH = 0#16 := rfl
@[simp] theorem resetAction_argbuf (s : State) : (resetAction s).argbuf = Vector.replicate 128 0#8 := rfl
@[simp] theorem resetAction_stage (s : State) : (resetAction s).stage = Vector.ofFn fun i => Config.freeStage s.draws i.val := rfl
@[simp] theorem resetAction_csN (s : State) : (resetAction s).csN = .high := rfl
@[simp] theorem resetAction_dc (s : State) : (resetAction s).dc = .high := rfl
@[simp] theorem resetAction_tr (s : State) : (resetAction s).tr = s.tr ++ [.rst] := rfl
@[simp] theorem resetAction_turns (s : State) : (resetAction s).turns = s.turns := rfl
@[simp] theorem resetAction_rdata (s : State) : (resetAction s).rdata = s.rdata := rfl
@[simp] theorem resetAction_draws (s : State) : (resetAction s).draws = s.draws + 1 := rfl

/-! ### `applyErrclr` -/

@[simp] theorem applyErrclr_cfg (e : Bool) (s : State) : (applyErrclr e s).cfg = s.cfg := by
  cases e <;> rfl
@[simp] theorem applyErrclr_seqmem (e : Bool) (s : State) : (applyErrclr e s).seqmem = s.seqmem := by
  cases e <;> rfl
@[simp] theorem applyErrclr_eng (e : Bool) (s : State) : (applyErrclr e s).eng = s.eng := by
  cases e <;> rfl
@[simp] theorem applyErrclr_pend (e : Bool) (s : State) : (applyErrclr e s).pend = s.pend := by
  cases e <;> rfl
@[simp] theorem applyErrclr_sp (e : Bool) (s : State) : (applyErrclr e s).sp = s.sp := by
  cases e <;> rfl
@[simp] theorem applyErrclr_reject (e : Bool) (s : State) : (applyErrclr e s).reject = (!e && s.reject) := by
  cases e <;> rfl
@[simp] theorem applyErrclr_badop (e : Bool) (s : State) : (applyErrclr e s).badop = (!e && s.badop) := by
  cases e <;> rfl
@[simp] theorem applyErrclr_cause (e : Bool) (s : State) : (applyErrclr e s).cause = s.cause := by
  cases e <;> rfl
@[simp] theorem applyErrclr_seqStart (e : Bool) (s : State) : (applyErrclr e s).seqStart = s.seqStart := by
  cases e <;> rfl
@[simp] theorem applyErrclr_seqCur (e : Bool) (s : State) : (applyErrclr e s).seqCur = s.seqCur := by
  cases e <;> rfl
@[simp] theorem applyErrclr_faultPtr (e : Bool) (s : State) : (applyErrclr e s).faultPtr = s.faultPtr := by
  cases e <;> rfl
@[simp] theorem applyErrclr_cmd (e : Bool) (s : State) : (applyErrclr e s).cmd = s.cmd := by
  cases e <;> rfl
@[simp] theorem applyErrclr_madctl (e : Bool) (s : State) : (applyErrclr e s).madctl = s.madctl := by
  cases e <;> rfl
@[simp] theorem applyErrclr_frmctr (e : Bool) (s : State) : (applyErrclr e s).frmctr = s.frmctr := by
  cases e <;> rfl
@[simp] theorem applyErrclr_winX (e : Bool) (s : State) : (applyErrclr e s).winX = s.winX := by
  cases e <;> rfl
@[simp] theorem applyErrclr_winY (e : Bool) (s : State) : (applyErrclr e s).winY = s.winY := by
  cases e <;> rfl
@[simp] theorem applyErrclr_winW (e : Bool) (s : State) : (applyErrclr e s).winW = s.winW := by
  cases e <;> rfl
@[simp] theorem applyErrclr_winH (e : Bool) (s : State) : (applyErrclr e s).winH = s.winH := by
  cases e <;> rfl
@[simp] theorem applyErrclr_argbuf (e : Bool) (s : State) : (applyErrclr e s).argbuf = s.argbuf := by
  cases e <;> rfl
@[simp] theorem applyErrclr_stage (e : Bool) (s : State) : (applyErrclr e s).stage = s.stage := by
  cases e <;> rfl
@[simp] theorem applyErrclr_csN (e : Bool) (s : State) : (applyErrclr e s).csN = s.csN := by
  cases e <;> rfl
@[simp] theorem applyErrclr_dc (e : Bool) (s : State) : (applyErrclr e s).dc = s.dc := by
  cases e <;> rfl
@[simp] theorem applyErrclr_tr (e : Bool) (s : State) : (applyErrclr e s).tr = s.tr := by
  cases e <;> rfl
@[simp] theorem applyErrclr_turns (e : Bool) (s : State) : (applyErrclr e s).turns = s.turns := by
  cases e <;> rfl
@[simp] theorem applyErrclr_rdata (e : Bool) (s : State) : (applyErrclr e s).rdata = s.rdata := by
  cases e <;> rfl
@[simp] theorem applyErrclr_draws (e : Bool) (s : State) : (applyErrclr e s).draws = s.draws := by
  cases e <;> rfl

/-! ### `emit` -/

@[simp] theorem emit_cfg (e : Event) (s : State) : (emit e s).cfg = s.cfg := by
  cases e <;> rfl
@[simp] theorem emit_seqmem (e : Event) (s : State) : (emit e s).seqmem = s.seqmem := by
  cases e <;> rfl
@[simp] theorem emit_eng (e : Event) (s : State) : (emit e s).eng = s.eng := by
  cases e <;> rfl
@[simp] theorem emit_pend (e : Event) (s : State) : (emit e s).pend = s.pend := by
  cases e <;> rfl
@[simp] theorem emit_sp (e : Event) (s : State) : (emit e s).sp = s.sp := by
  cases e <;> rfl
@[simp] theorem emit_reject (e : Event) (s : State) : (emit e s).reject = s.reject := by
  cases e <;> rfl
@[simp] theorem emit_badop (e : Event) (s : State) : (emit e s).badop = s.badop := by
  cases e <;> rfl
@[simp] theorem emit_cause (e : Event) (s : State) : (emit e s).cause = s.cause := by
  cases e <;> rfl
@[simp] theorem emit_seqStart (e : Event) (s : State) : (emit e s).seqStart = s.seqStart := by
  cases e <;> rfl
@[simp] theorem emit_seqCur (e : Event) (s : State) : (emit e s).seqCur = s.seqCur := by
  cases e <;> rfl
@[simp] theorem emit_faultPtr (e : Event) (s : State) : (emit e s).faultPtr = s.faultPtr := by
  cases e <;> rfl
@[simp] theorem emit_cmd (e : Event) (s : State) : (emit e s).cmd = s.cmd := by
  cases e <;> rfl
@[simp] theorem emit_madctl (e : Event) (s : State) : (emit e s).madctl = s.madctl := by
  cases e <;> rfl
@[simp] theorem emit_frmctr (e : Event) (s : State) : (emit e s).frmctr = s.frmctr := by
  cases e <;> rfl
@[simp] theorem emit_winX (e : Event) (s : State) : (emit e s).winX = s.winX := by
  cases e <;> rfl
@[simp] theorem emit_winY (e : Event) (s : State) : (emit e s).winY = s.winY := by
  cases e <;> rfl
@[simp] theorem emit_winW (e : Event) (s : State) : (emit e s).winW = s.winW := by
  cases e <;> rfl
@[simp] theorem emit_winH (e : Event) (s : State) : (emit e s).winH = s.winH := by
  cases e <;> rfl
@[simp] theorem emit_argbuf (e : Event) (s : State) : (emit e s).argbuf = s.argbuf := by
  cases e <;> rfl
@[simp] theorem emit_stage (e : Event) (s : State) : (emit e s).stage = s.stage := by
  cases e <;> rfl
@[simp] theorem emit_tr (e : Event) (s : State) : (emit e s).tr = s.tr ++ [e] := by
  cases e <;> rfl
@[simp] theorem emit_turns (e : Event) (s : State) : (emit e s).turns = s.turns := by
  cases e <;> rfl
@[simp] theorem emit_rdata (e : Event) (s : State) : (emit e s).rdata = s.rdata := by
  cases e <;> rfl
@[simp] theorem emit_draws (e : Event) (s : State) : (emit e s).draws = s.draws := by
  cases e <;> rfl

/-- CS_N after an event, by the event alone (R45). -/
@[simp] theorem emit_csN (e : Event) (s : State) :
    (emit e s).csN = match e with | .cs v => v | .rst => .high | _ => s.csN := by
  cases e <;> rfl

/-- DC after an event, by the event alone (R45). -/
@[simp] theorem emit_dc (e : Event) (s : State) :
    (emit e s).dc = match e with | .dc v => v | .rst => .high | _ => s.dc := by
  cases e <;> rfl

/-! ### `tickAction` -/

@[simp] theorem tickAction_cfg (s : State) : (tickAction s).cfg = s.cfg := by
  unfold tickAction; split <;> (try split) <;> rfl
@[simp] theorem tickAction_seqmem (s : State) : (tickAction s).seqmem = s.seqmem := by
  unfold tickAction; split <;> (try split) <;> rfl
@[simp] theorem tickAction_eng (s : State) : (tickAction s).eng = s.eng := by
  unfold tickAction; split <;> (try split) <;> rfl
@[simp] theorem tickAction_sp (s : State) : (tickAction s).sp = s.sp := by
  unfold tickAction; split <;> (try split) <;> rfl
@[simp] theorem tickAction_reject (s : State) : (tickAction s).reject = s.reject := by
  unfold tickAction; split <;> (try split) <;> rfl
@[simp] theorem tickAction_badop (s : State) : (tickAction s).badop = s.badop := by
  unfold tickAction; split <;> (try split) <;> rfl
@[simp] theorem tickAction_cause (s : State) : (tickAction s).cause = s.cause := by
  unfold tickAction; split <;> (try split) <;> rfl
@[simp] theorem tickAction_seqStart (s : State) : (tickAction s).seqStart = s.seqStart := by
  unfold tickAction; split <;> (try split) <;> rfl
@[simp] theorem tickAction_seqCur (s : State) : (tickAction s).seqCur = s.seqCur := by
  unfold tickAction; split <;> (try split) <;> rfl
@[simp] theorem tickAction_faultPtr (s : State) : (tickAction s).faultPtr = s.faultPtr := by
  unfold tickAction; split <;> (try split) <;> rfl
@[simp] theorem tickAction_cmd (s : State) : (tickAction s).cmd = s.cmd := by
  unfold tickAction; split <;> (try split) <;> rfl
@[simp] theorem tickAction_madctl (s : State) : (tickAction s).madctl = s.madctl := by
  unfold tickAction; split <;> (try split) <;> rfl
@[simp] theorem tickAction_frmctr (s : State) : (tickAction s).frmctr = s.frmctr := by
  unfold tickAction; split <;> (try split) <;> rfl
@[simp] theorem tickAction_winX (s : State) : (tickAction s).winX = s.winX := by
  unfold tickAction; split <;> (try split) <;> rfl
@[simp] theorem tickAction_winY (s : State) : (tickAction s).winY = s.winY := by
  unfold tickAction; split <;> (try split) <;> rfl
@[simp] theorem tickAction_winW (s : State) : (tickAction s).winW = s.winW := by
  unfold tickAction; split <;> (try split) <;> rfl
@[simp] theorem tickAction_winH (s : State) : (tickAction s).winH = s.winH := by
  unfold tickAction; split <;> (try split) <;> rfl
@[simp] theorem tickAction_argbuf (s : State) : (tickAction s).argbuf = s.argbuf := by
  unfold tickAction; split <;> (try split) <;> rfl
@[simp] theorem tickAction_stage (s : State) : (tickAction s).stage = s.stage := by
  unfold tickAction; split <;> (try split) <;> rfl
@[simp] theorem tickAction_csN (s : State) : (tickAction s).csN = s.csN := by
  unfold tickAction; split <;> (try split) <;> rfl
@[simp] theorem tickAction_dc (s : State) : (tickAction s).dc = s.dc := by
  unfold tickAction; split <;> (try split) <;> rfl
@[simp] theorem tickAction_tr (s : State) : (tickAction s).tr = s.tr := by
  unfold tickAction; split <;> (try split) <;> rfl
@[simp] theorem tickAction_turns (s : State) : (tickAction s).turns = s.turns := by
  unfold tickAction; split <;> (try split) <;> rfl
@[simp] theorem tickAction_rdata (s : State) : (tickAction s).rdata = s.rdata := by
  unfold tickAction; split <;> (try split) <;> rfl
@[simp] theorem tickAction_draws (s : State) : (tickAction s).draws = s.draws := by
  unfold tickAction; split <;> (try split) <;> rfl

end Sys2Proof.Machine
end

