-- ==== Sys2Proof/Laws/Memory.lean ====
section
/-! SUPPORT. SEQMEM: loading an image gives the canonical form, and reading gives the image back (spec/20_memory.md R61). -/

namespace Sys2Proof.Machine

namespace Memory

@[simp] theorem readBytes_length (m : Memory) (a n : Nat) : (m.readBytes a n).length = n := by
  induction n generalizing a with
  | zero => rfl
  | succ n ih => simp [readBytes, ih]

theorem readBytes_head (m : Memory) (a n : Nat) (h : 0 < n) :
    m.readBytes a n = m.read a :: m.readBytes (a + 1) (n - 1) := by
  obtain ⟨k, rfl⟩ := Nat.exists_eq_add_of_lt h
  simp [readBytes]

theorem readBytes_add (m : Memory) (a k n : Nat) :
    m.readBytes a (k + n) = m.readBytes a k ++ m.readBytes (a + k) n := by
  induction k generalizing a with
  | zero => simp [readBytes]
  | succ k ih =>
    rw [Nat.succ_add]
    simp [readBytes, ih, Nat.add_assoc, Nat.add_comm 1 k]

theorem readBytes_take (m : Memory) (a n k : Nat) (h : k ≤ n) :
    (m.readBytes a n).take k = m.readBytes a k := by
  obtain ⟨r, rfl⟩ := Nat.exists_eq_add_of_le h
  rw [readBytes_add, List.take_left' (by simp)]

theorem readBytes_drop (m : Memory) (a n k : Nat) (h : k ≤ n) :
    (m.readBytes a n).drop k = m.readBytes (a + k) (n - k) := by
  obtain ⟨r, rfl⟩ := Nat.exists_eq_add_of_le h
  rw [readBytes_add, List.drop_left' (by simp)]
  simp

theorem canonicalFrom_mono {n lo lo' : Nat} {m : Memory} (hl : lo' ≤ lo)
    (h : canonicalFrom n lo m = true) : canonicalFrom n lo' m = true := by
  cases m with
  | nil => rfl
  | cons c rest =>
    simp only [canonicalFrom, Bool.and_eq_true, decide_eq_true_eq] at h ⊢
    exact ⟨⟨⟨le_trans hl h.1.1.1, h.1.1.2⟩, h.1.2⟩, h.2⟩

/-- A load is in canonical form. -/
theorem load_canonicalFrom (n a : Nat) (bs : List Byte) (h : a + bs.length ≤ n) :
    canonicalFrom n a (load a bs) = true := by
  induction bs generalizing a with
  | nil => rfl
  | cons b bs ih =>
    simp only [List.length_cons] at h
    have hrest := ih (a + 1) (by omega)
    unfold load
    split
    · exact canonicalFrom_mono (Nat.le_succ a) hrest
    · rename_i hb
      simp only [canonicalFrom, Bool.and_eq_true, decide_eq_true_eq, bne_iff_ne]
      exact ⟨⟨⟨le_refl a, by omega⟩, hb⟩, hrest⟩

/-- An offset below every offset of a load reads as unlisted. -/
theorem read_load_below (a p : Nat) (bs : List Byte) (h : p < a) : read (load a bs) p = unlisted := by
  induction bs generalizing a with
  | nil => rfl
  | cons b bs ih =>
    unfold load
    split
    · exact ih (a + 1) (by omega)
    · rw [read, if_neg (by omega), ih (a + 1) (by omega)]

/-- Reading an offset of a load gives its byte back; past its end an offset reads as unlisted. -/
theorem read_load (a i : Nat) (bs : List Byte) : read (load a bs) (a + i) = bs.getD i unlisted := by
  induction bs generalizing a i with
  | nil => simp [load, read]
  | cons b bs ih =>
    cases i with
    | zero =>
      unfold load
      split
      · rename_i hb
        simpa [hb] using read_load_below (a + 1) a bs (by omega)
      · simp [read]
    | succ i =>
      have hi : a + (i + 1) = a + 1 + i := by omega
      unfold load
      split
      · rw [hi, ih]; simp
      · rw [read, if_neg (by omega), hi, ih]; simp

/-- Reading a whole load gives the image back. -/
theorem readBytes_load (a : Nat) (bs : List Byte) : readBytes (load a bs) a bs.length = bs := by
  apply List.ext_getElem (by simp)
  intro i h₁ h₂
  have key : ∀ (m : Memory) (a n i : Nat) (h : i < (m.readBytes a n).length),
      (m.readBytes a n)[i] = m.read (a + i) := by
    intro m a n
    induction n generalizing a with
    | zero => intro i h; simp [readBytes] at h
    | succ n ih =>
      intro i h
      cases i with
      | zero => simp [readBytes]
      | succ i => simp [readBytes, ih, Nat.add_assoc, Nat.add_comm 1 i]
  rw [key, read_load]
  simp [h₂]

end Memory

/-- The bytes of SEQMEM from an offset on, cut after `n` of them (R61). -/
theorem bytesFrom_split {c : Params} {m : Memory} {p n : Nat} (h : p + n ≤ c.seqBytes) :
    bytesFrom c m p = m.readBytes p n ++ bytesFrom c m (p + n) := by
  unfold bytesFrom
  rw [show c.seqBytes - p = n + (c.seqBytes - (p + n)) by omega, Memory.readBytes_add]

theorem bytesFrom_length (c : Params) (m : Memory) (p : Nat) : (bytesFrom c m p).length = c.seqBytes - p :=
  Memory.readBytes_length m p _

/-- SEQMEM at reset is in canonical form. -/
theorem chipImage_wf : chipImage.wf Config.chip.seqBytes = true :=
  Memory.load_canonicalFrom _ _ _ (by simp)

/-- Every state built by `State.initial` from a canonical memory has one. -/
theorem placeDescriptor_memory_wf (bs : List Byte) (s : State) (h : bs.length ≤ maxDescriptor) :
    (placeDescriptor bs s).seqmem.wf (placeDescriptor bs s).cfg.seqBytes = true := by
  apply Memory.load_canonicalFrom
  simpa [placeDescriptor, Params.seqBytes] using h

end Sys2Proof.Machine
end

