-- ==== Sys2Proof/Laws/Ops.lean ====
section
/-! SUPPORT. The shared operations, one lemma each that says what it does (spec/40_command_engine.md R100, R101, R110, R121,
spec/60_exceptions.md R186). -/

namespace Sys2Proof.Machine

/-! ### FRAME -/

/-- STAGE[i] after step 1 of FRAME is byte `i` of the frame (R100). -/
theorem stageByte_stageCopy (st : Buffer) (bs : List Byte) (i : Nat) (hi : i < bs.length)
    (hb : bs.length ≤ stageBytes) : stageByte (stageCopy st bs) i = bs.getD i 0#8 := by
  have h : i < 128 := by simp [stageBytes] at hb; omega
  have hl : i < (stageCopy st bs).toList.length := by simp [h]
  rw [stageByte, List.getD_eq_getElem _ _ hl]
  simp [stageCopy, hi]

/-- Past the frame, step 1 leaves STAGE as it was (R38). -/
theorem stageByte_stageCopy_past (st : Buffer) (bs : List Byte) (i : Nat) (hi : bs.length ≤ i)
    (h : i < stageBytes) : stageByte (stageCopy st bs) i = stageByte st i := by
  have h' : i < 128 := h
  have hl : i < (stageCopy st bs).toList.length := by simp [h']
  have hl' : i < st.toList.length := by simp [h']
  rw [stageByte, stageByte, List.getD_eq_getElem _ _ hl, List.getD_eq_getElem _ _ hl']
  simp [stageCopy, Nat.not_lt.mpr hi]

/-- The actions of FRAME depend on the bytes alone (R101). -/
theorem frame_actions (st : Buffer) (bs : List Byte) (hb : bs.length ≤ stageBytes) (hn : bs ≠ []) :
    (frame st bs).2 = frameActions bs := by
  obtain ⟨opc, args, rfl⟩ := List.exists_cons_of_ne_nil hn
  have h0 : stageByte (stageCopy st (opc :: args)) 0 = opc := by
    rw [stageByte_stageCopy _ _ _ (by simp) hb]; rfl
  have hargs : (List.range args.length).map
      (fun i => Action.ev (.tx (stageByte (stageCopy st (opc :: args)) (i + 1)))) =
      args.map fun b => Action.ev (.tx b) := by
    apply List.ext_getElem (by simp)
    intro i h₁ h₂
    have hi : i < args.length := by simpa using h₂
    simp only [List.getElem_map, List.getElem_range]
    rw [stageByte_stageCopy _ _ _ (by simp; omega) hb]
    simp [hi]
  simp only [frame, frameActions, h0, List.length_cons, Nat.add_sub_cancel, hargs]

theorem frame_stage (st : Buffer) (bs : List Byte) : (frame st bs).1 = stageCopy st bs := rfl

theorem frameTwice_actions (st : Buffer) (as bs : List Byte) (ha : as.length ≤ stageBytes) (hna : as ≠ [])
    (hb : bs.length ≤ stageBytes) (hnb : bs ≠ []) :
    (frameTwice st as bs).2 = frameActions as ++ frameActions bs := by
  simp only [frameTwice, frame_actions _ _ ha hna, frame_actions _ _ hb hnb]

/-! ### The bytes of the fixed frames -/

theorem sendCmdBytes_length (s : State) : (sendCmdBytes s).length = s.cmdArglen + 1 := by
  have : s.cmdArglen < 128 := (s.cmd.extractLsb' 8 7).isLt
  simp [sendCmdBytes]
  omega

theorem sendCmdBytes_le (s : State) : (sendCmdBytes s).length ≤ stageBytes := by
  have : s.cmdArglen < 128 := (s.cmd.extractLsb' 8 7).isLt
  rw [sendCmdBytes_length, stageBytes]
  omega

theorem frmctrBytes_le (s : State) : (frmctrBytes s).length ≤ stageBytes := by
  unfold frmctrBytes
  simp only
  split <;> simp [stageBytes]

theorem frmctrBytes_ne_nil (s : State) : frmctrBytes s ≠ [] := by
  unfold frmctrBytes
  simp only
  split <;> simp

theorem acceptSendCmd_pend (s : State) :
    (acceptSendCmd s).pend = frameActions (sendCmdBytes s) ++ [.done] := by
  rw [acceptSendCmd, accept_pend, frame_actions _ _ (sendCmdBytes_le s) (by simp [sendCmdBytes])]

theorem acceptConfigure_pend (s : State) :
    (acceptConfigure s).pend =
      frameActions (madctlBytes s) ++ frameActions (frmctrBytes s) ++ [.done] := by
  rw [acceptConfigure, accept_pend, frameTwice_actions _ _ _ (by simp [madctlBytes, stageBytes])
    (by simp [madctlBytes]) (frmctrBytes_le s) (frmctrBytes_ne_nil s)]

theorem acceptSetWindow_pend (s : State) :
    (acceptSetWindow s).pend =
      frameActions (rowsetBytes s) ++ frameActions (colsetBytes s) ++ [.done] := by
  rw [acceptSetWindow, accept_pend, frameTwice_actions _ _ _ (by simp [rowsetBytes, bytes16, stageBytes])
    (by simp [rowsetBytes]) (by simp [colsetBytes, bytes16, stageBytes]) (by simp [colsetBytes])]

theorem acceptFill_pend (s : State) :
    (acceptFill s).pend =
      [.ev (.cs .low), .ev (.dc .low), .ev (.tx s.cfg.opcRamwr), .ev (.dc .high)] ++
        ((fillBytes s).map fun b => .ev (.tx b)) ++ [.ev (.cs .high)] ++ [.done] := rfl

/-! ### Starts -/

/-- A start is accepted in IDLE and refused otherwise (R110, R186). -/
theorem startWhenIdle_cases (f : State → State) (s : State) :
    (s.eng = .idle ∧ startWhenIdle f s = f s) ∨ (s.eng ≠ .idle ∧ startWhenIdle f s = setReject s) := by
  by_cases h : s.eng = .idle
  · exact .inl ⟨h, by simp [startWhenIdle, h]⟩
  · exact .inr ⟨h, by simp [startWhenIdle, h]⟩

/-- What OP does, by its value (R80). -/
theorem performOp_cases (op : BitVec 4) (s : State) :
    performOp op s = s ∨ performOp op s = setBadop s ∨
    (∃ f ∈ [acceptSendCmd, acceptRunSeq, acceptConfigure, acceptSetWindow, acceptFill],
      performOp op s = startWhenIdle f s) := by
  unfold performOp
  split
  · exact .inl rfl
  all_goals first
    | exact .inr (.inl rfl)
    | exact .inr (.inr ⟨_, by simp, rfl⟩)

/-! ### The sequence interpreter -/

theorem runDescriptor_fits {len : Nat} {bs : List Byte} {tail : List Action} {s : State}
    (h : s.sp.toNat + len ≤ s.cfg.seqBytes) :
    runDescriptor len bs tail s = { setCur s.sp s with
      stage := stageCopy s.stage bs
      pend := (frame s.stage bs).2 ++ tail ++ .seq (s.sp + BitVec.ofNat 17 len) :: s.pend } := by
  simp [runDescriptor, h, frame_stage]

theorem runDescriptor_overrun {len : Nat} {bs : List Byte} {tail : List Action} {s : State}
    (h : s.cfg.seqBytes < s.sp.toNat + len) : runDescriptor len bs tail s = overrunAtSp s := by
  simp [runDescriptor, Nat.not_le.mpr h]

theorem seqBytes_le (c : Params) : c.seqBytes ≤ 65536 := by
  have := c.seqLast.isLt
  unfold Params.seqBytes
  omega

theorem seqBytes_pos (c : Params) : 0 < c.seqBytes := Nat.succ_pos _

/-- A descriptor that fits leaves a next pointer that does not wrap (R121: p has no wrap-around). -/
theorem nextPointer_toNat {p : SeqPtr} {len : Nat} {c : Params} (h : p.toNat + len ≤ c.seqBytes) :
    (p + BitVec.ofNat 17 len).toNat = p.toNat + len := by
  have := seqBytes_le c
  simp only [BitVec.toNat_add, BitVec.toNat_ofNat]
  omega

/-- The bytes a fetch offers, up to any number that SEQMEM holds from SP on. -/
theorem fetchBytes_length (s : State) :
    (fetchBytes s).length = min maxDescriptor (s.cfg.seqBytes - s.sp.toNat) := by
  simp [fetchBytes]

/-- A fetch offers the first 130 bytes of SEQMEM from SP on (R91, R121). -/
theorem fetchBytes_eq (s : State) :
    fetchBytes s = (bytesFrom s.cfg s.seqmem s.sp.toNat).take maxDescriptor := by
  unfold fetchBytes bytesFrom
  rcases Nat.le_total maxDescriptor (s.cfg.seqBytes - s.sp.toNat) with h | h
  · rw [Nat.min_eq_left h, Memory.readBytes_take _ _ _ _ h]
  · rw [Nat.min_eq_right h, List.take_of_length_le (by simpa using h)]

/-- A fetch decodes what the bytes of SEQMEM from SP on decode to (R87). -/
theorem fetchDescriptor_accepted {s : State} {i : Instr} {r : List Byte}
    (h : decodeDescriptor (bytesFrom s.cfg s.seqmem s.sp.toNat) = .accepted i r) :
    ∃ r', fetchDescriptor s = .accepted i r' := by
  rw [fetchDescriptor, fetchBytes_eq]
  exact decodeDescriptor_take h

/-- A fetch finds no descriptor exactly when the bytes of SEQMEM from SP on hold none (R182). -/
theorem fetchDescriptor_rejected {s : State} {e : DecodeError}
    (h : decodeDescriptor (bytesFrom s.cfg s.seqmem s.sp.toNat) = .rejected e) :
    ∃ e', fetchDescriptor s = .rejected e' := by
  rw [fetchDescriptor, fetchBytes_eq]
  cases hd : decodeDescriptor ((bytesFrom s.cfg s.seqmem s.sp.toNat).take maxDescriptor) with
  | rejected e => exact ⟨e, rfl⟩
  | accepted i r =>
    have := decodeDescriptor_append ((bytesFrom s.cfg s.seqmem s.sp.toNat).drop maxDescriptor) hd
    rw [List.take_append_drop, h] at this
    cases this

/-- An accepted start with its actions named. -/
theorem accept_eq (x : Buffer × List Action) (s : State) (as : List Action) (h : x.2 = as) :
    accept x s = { s with eng := .busy, stage := x.1, pend := as ++ [.done] } := by
  rw [← h]; rfl

/-- ERRCLR as one update. -/
theorem applyErrclr_eq (e : Bool) (s : State) :
    applyErrclr e s = { s with reject := !e && s.reject, badop := !e && s.badop } := by
  cases e <;> rfl

end Sys2Proof.Machine
end

