-- ==== Sys2Proof/Laws/Exec.lean ====
section
/-! SUPPORT. What `exec` and the turns answer, one equation per instruction and per turn. -/

namespace Sys2Proof.Machine

/-- No instruction stops the machine: there is always a next state. -/
theorem exec_next (i : Instr) (s : State) : ∃ t, exec i s = .next t := by
  cases i <;> exact ⟨_, rfl⟩

/-- ERRCLR with OP is the operation with its ERRCLR bit set (R22, R189): the two spellings of a shared word agree. -/
theorem exec_errclr_op (x : BitVec 26) (s : State) :
    exec (.errclr x 0#4) s = exec (.nop true x) s ∧
    exec (.errclr x 1#4) s = exec (.sendCmd true x) s ∧
    exec (.errclr x 2#4) s = exec (.runSeq true x) s ∧
    exec (.errclr x 3#4) s = exec (.configure true x) s ∧
    exec (.errclr x 4#4) s = exec (.setWindow true x) s ∧
    exec (.errclr x 5#4) s = exec (.fill true x) s :=
  ⟨rfl, rfl, rfl, rfl, rfl, rfl⟩

theorem exec_errclr_reserved67 (x : BitVec 26) (r : BitVec 1) (s : State) :
    exec (.errclr x (3#3 ++ r)) s = exec (.reservedOp67 true x r) s := by
  have h : ∀ r : BitVec 1, (3#3 ++ r : BitVec 4).toNat = 6 ∨ (3#3 ++ r : BitVec 4).toNat = 7 := by decide
  rcases h r with h | h <;> simp [exec, execErrclr, execReservedOp67, performOp, h, applyErrclr]

theorem exec_errclr_reserved815 (x : BitVec 26) (r : BitVec 3) (s : State) :
    exec (.errclr x (1#1 ++ r)) s = exec (.reservedOp815 true x r) s := by
  have h : ∀ r : BitVec 3, (1#1 ++ r : BitVec 4).toNat ∈ [8, 9, 10, 11, 12, 13, 14, 15] := by decide
  have := h r
  simp only [List.mem_cons, List.not_mem_nil, or_false] at this
  rcases this with h | h | h | h | h | h | h | h <;>
    simp [exec, execErrclr, execReservedOp815, performOp, h, applyErrclr]

/-! ### Steps -/

/-- A step takes the next turn in the state that has it no longer. -/
theorem step_eq (s : State) : step s = takeTurn s.nextTurn { s with turns := s.laterTurns } := by
  obtain ⟨cfg, seqmem, eng, pend, sp, reject, badop, cause, seqStart, seqCur, faultPtr, cmd, madctl, frmctr, winX, winY,
    winW, winH, argbuf, stage, csN, dc, tr, turns, rdata, draws⟩ := s
  cases turns <;> rfl

/-- The engine has no step in IDLE and FAULT (R111). -/
theorem engineTurn_quiet {s : State} (h : s.eng ≠ .busy) : engineTurn s = .next s := by
  simp [engineTurn, h]

theorem engineTurn_seq {s : State} {p : SeqPtr} {rest : List Action} (h : s.eng = .busy)
    (hp : s.pend = .seq p :: rest) : engineTurn s = runSeqHead p rest s := by
  simp [engineTurn, h, hp]

/-- The engine performs any other head action (R111). -/
theorem engineTurn_action {s : State} {a : Action} {rest : List Action} (h : s.eng = .busy)
    (hp : s.pend = a :: rest) (ha : ∀ p, a ≠ .seq p) : engineTurn s = .next (perform a rest s) := by
  cases a <;> simp [engineTurn, h, hp] at ha ⊢

/-- Arriving at a descriptor gives a next state, whatever SEQMEM holds. -/
theorem runSeqHead_next (p : SeqPtr) (rest : List Action) (s : State) :
    ∃ t, runSeqHead p rest s = .next t := by
  unfold runSeqHead
  simp only
  split
  · exact exec_next _ _
  · exact ⟨_, rfl⟩

/-- Arriving at a descriptor: END, or a CMD or CMDD that fits, or an overrun (R121). The descriptor's bytes are those of
SEQMEM from `p` on. -/
theorem runSeqHead_cases (p : SeqPtr) (rest : List Action) (s : State) :
    (∃ i r, decodeDescriptor (fetchBytes { s with sp := p, pend := rest }) = .accepted i r ∧
      runSeqHead p rest s = exec i { s with sp := p, pend := rest }) ∨
    (∃ e, decodeDescriptor (fetchBytes { s with sp := p, pend := rest }) = .rejected e ∧
      runSeqHead p rest s = .next (overrunAtSp { s with sp := p, pend := rest })) := by
  unfold runSeqHead fetchDescriptor
  simp only [perform]
  cases h : decodeDescriptor (fetchBytes { s with sp := p, pend := rest }) with
  | accepted i r => exact .inl ⟨i, r, rfl, rfl⟩
  | rejected e => exact .inr ⟨e, rfl, rfl⟩

/-- A 32-bit write to CTRL runs the instruction it decodes to (R22). -/
theorem writeTurn_ctrl (v : Word) (s : State) : writeTurn 0#10 4 v s = exec (decodeCtrl v) s := by
  simp [writeTurn, accessOk]

/-- What a CTRL write can be, by SRST and ERRCLR: never a descriptor (R80, R81). -/
theorem decodeCtrl_cases (w : Word) :
    (w.getLsbD 31 = true ∧ ∃ x, decodeCtrl w = .srst x) ∨
    (w.getLsbD 31 = false ∧
      ((w.getLsbD 30 = true ∧ ∃ x, decodeCtrl w = .errclr x 0#4) ∨
       (w.getLsbD 30 = false ∧ ∃ x, decodeCtrl w = .nop false x) ∨
       (∃ x, decodeCtrl w ∈ [Instr.sendCmd (w.getLsbD 30) x, .runSeq (w.getLsbD 30) x, .configure (w.getLsbD 30) x,
          .setWindow (w.getLsbD 30) x, .fill (w.getLsbD 30) x]) ∨
       (∃ x r, decodeCtrl w = .reservedOp67 (w.getLsbD 30) x r) ∨
       (∃ x r, decodeCtrl w = .reservedOp815 (w.getLsbD 30) x r))) := by
  unfold decodeCtrl
  cases h31 : w.getLsbD 31
  · refine .inr ⟨rfl, ?_⟩
    simp only [Bool.false_eq_true, if_false]
    split
    · cases h30 : w.getLsbD 30
      · exact .inr (.inl ⟨rfl, _, rfl⟩)
      · exact .inl ⟨rfl, _, rfl⟩
    all_goals first
      | exact .inr (.inr (.inr (.inl ⟨_, _, rfl⟩)))
      | exact .inr (.inr (.inr (.inr ⟨_, _, rfl⟩)))
      | exact .inr (.inr (.inl ⟨w.extractLsb' 4 26, by simp⟩))
  · exact .inl ⟨rfl, _, rfl⟩

/-- The five starts, in one equation each (R110, R186). -/
theorem exec_starts (e : Bool) (x : BitVec 26) (s : State) :
    exec (.sendCmd e x) s = .next (startWhenIdle acceptSendCmd (applyErrclr e s)) ∧
    exec (.runSeq e x) s = .next (startWhenIdle acceptRunSeq (applyErrclr e s)) ∧
    exec (.configure e x) s = .next (startWhenIdle acceptConfigure (applyErrclr e s)) ∧
    exec (.setWindow e x) s = .next (startWhenIdle acceptSetWindow (applyErrclr e s)) ∧
    exec (.fill e x) s = .next (startWhenIdle acceptFill (applyErrclr e s)) :=
  ⟨rfl, rfl, rfl, rfl, rfl⟩

/-- The five accepted starts. -/
def acceptances : List (State → State) :=
  [acceptSendCmd, acceptRunSeq, acceptConfigure, acceptSetWindow, acceptFill]

/-- What a CTRL write leaves: SRST resets or is refused; otherwise ERRCLR comes first, and then nothing more, BADOP, a
refused start, or an accepted one (R22, R110, R186, R187, R189, R221). -/
theorem exec_ctrl_cases (w : Word) (s : State) :
    ∃ t, exec (decodeCtrl w) s = .next t ∧
      ((w.getLsbD 31 = true ∧ s.eng = .busy ∧ t = setReject s) ∨
       (w.getLsbD 31 = true ∧ s.eng ≠ .busy ∧ t = resetAction s) ∨
       (w.getLsbD 31 = false ∧
         (t = applyErrclr (w.getLsbD 30) s ∨ t = setBadop (applyErrclr (w.getLsbD 30) s) ∨
          (s.eng ≠ .idle ∧ t = setReject (applyErrclr (w.getLsbD 30) s)) ∨
          (s.eng = .idle ∧ ∃ f ∈ acceptances, t = f (applyErrclr (w.getLsbD 30) s))))) := by
  rcases decodeCtrl_cases w with ⟨h31, x, h⟩ | ⟨h31, h⟩
  · rw [h]
    by_cases hb : s.eng = .busy
    · exact ⟨_, by simp only [exec, execSrst, if_pos hb], .inl ⟨h31, hb, rfl⟩⟩
    · exact ⟨_, by simp only [exec, execSrst, if_neg hb], .inr (.inl ⟨h31, hb, rfl⟩)⟩
  · have start : ∀ f ∈ acceptances,
        exec (decodeCtrl w) s = .next (startWhenIdle f (applyErrclr (w.getLsbD 30) s)) →
        ∃ t, exec (decodeCtrl w) s = .next t ∧
          (t = applyErrclr (w.getLsbD 30) s ∨ t = setBadop (applyErrclr (w.getLsbD 30) s) ∨
           (s.eng ≠ .idle ∧ t = setReject (applyErrclr (w.getLsbD 30) s)) ∨
           (s.eng = .idle ∧ ∃ f ∈ acceptances, t = f (applyErrclr (w.getLsbD 30) s))) := by
      intro f hf heq
      rcases startWhenIdle_cases f (applyErrclr (w.getLsbD 30) s) with ⟨hi, ht⟩ | ⟨hi, ht⟩
      · exact ⟨_, heq, .inr (.inr (.inr ⟨by simpa using hi, f, hf, ht⟩))⟩
      · exact ⟨_, heq, .inr (.inr (.inl ⟨by simpa using hi, ht⟩))⟩
    have found : ∃ t, exec (decodeCtrl w) s = .next t ∧
        (t = applyErrclr (w.getLsbD 30) s ∨ t = setBadop (applyErrclr (w.getLsbD 30) s) ∨
         (s.eng ≠ .idle ∧ t = setReject (applyErrclr (w.getLsbD 30) s)) ∨
         (s.eng = .idle ∧ ∃ f ∈ acceptances, t = f (applyErrclr (w.getLsbD 30) s))) := by
      rcases h with ⟨h30, x, h⟩ | ⟨h30, x, h⟩ | ⟨x, h⟩ | ⟨x, r, h⟩ | ⟨x, r, h⟩
      · rw [h, h30]
        exact ⟨_, rfl, .inl rfl⟩
      · rw [h, h30]
        exact ⟨_, rfl, .inl rfl⟩
      · obtain ⟨h₁, h₂, h₃, h₄, h₅⟩ := exec_starts (w.getLsbD 30) x s
        simp only [List.mem_cons, List.not_mem_nil, or_false] at h
        rcases h with h | h | h | h | h
        · exact start acceptSendCmd (by simp [acceptances]) (by rw [h, h₁])
        · exact start acceptRunSeq (by simp [acceptances]) (by rw [h, h₂])
        · exact start acceptConfigure (by simp [acceptances]) (by rw [h, h₃])
        · exact start acceptSetWindow (by simp [acceptances]) (by rw [h, h₄])
        · exact start acceptFill (by simp [acceptances]) (by rw [h, h₅])
      · rw [h]
        exact ⟨_, rfl, .inr (.inl rfl)⟩
      · rw [h]
        exact ⟨_, rfl, .inr (.inl rfl)⟩
    obtain ⟨t, ht, hc⟩ := found
    exact ⟨t, ht, .inr (.inr ⟨h31, hc⟩)⟩

/-- An accepted start answers the state of its acceptance (R110). -/
theorem exec_starts_idle (e : Bool) (x : BitVec 26) {s : State} (h : s.eng = .idle) :
    exec (.sendCmd e x) s = .next (acceptSendCmd (applyErrclr e s)) ∧
    exec (.runSeq e x) s = .next (acceptRunSeq (applyErrclr e s)) ∧
    exec (.configure e x) s = .next (acceptConfigure (applyErrclr e s)) ∧
    exec (.setWindow e x) s = .next (acceptSetWindow (applyErrclr e s)) ∧
    exec (.fill e x) s = .next (acceptFill (applyErrclr e s)) := by
  have hi : (applyErrclr e s).eng = .idle := by simpa using h
  obtain ⟨h₁, h₂, h₃, h₄, h₅⟩ := exec_starts e x s
  exact ⟨h₁.trans (congrArg _ (if_pos hi)), h₂.trans (congrArg _ (if_pos hi)), h₃.trans (congrArg _ (if_pos hi)),
    h₄.trans (congrArg _ (if_pos hi)), h₅.trans (congrArg _ (if_pos hi))⟩

end Sys2Proof.Machine
end

