-- ==== Sys2Proof/Laws/HostPort.lean ====
section
/-! SUPPORT. The register window, one lemma per register (spec/10_state.md R21 to R36). -/

namespace Sys2Proof.Machine

@[simp] theorem argbufIndex_val (k : Fin 128) :
    argbufIndex (BitVec.ofNat 10 (0x200 + 4 * k.val)) = k := by
  revert k; decide

@[simp] theorem isArgbuf_offset (k : Fin 128) : isArgbuf (BitVec.ofNat 10 (0x200 + 4 * k.val)) = true := by
  revert k; decide

theorem writeReg_seqStart (v : Word) (s : State) :
    writeReg 0x008#10 v s = { s with seqStart := v.setWidth 16 } := rfl
theorem writeReg_cmd (v : Word) (s : State) : writeReg 0x014#10 v s = { s with cmd := v.setWidth 15 } := rfl
theorem writeReg_madctl (v : Word) (s : State) :
    writeReg 0x018#10 v s = { s with madctl := v.setWidth 8 } := rfl
theorem writeReg_frmctr (v : Word) (s : State) :
    writeReg 0x01C#10 v s = { s with frmctr := v.setWidth 24 } := rfl
theorem writeReg_winX (v : Word) (s : State) : writeReg 0x020#10 v s = { s with winX := v.setWidth 16 } := rfl
theorem writeReg_winY (v : Word) (s : State) : writeReg 0x024#10 v s = { s with winY := v.setWidth 16 } := rfl
theorem writeReg_winW (v : Word) (s : State) : writeReg 0x028#10 v s = { s with winW := v.setWidth 16 } := rfl
theorem writeReg_winH (v : Word) (s : State) : writeReg 0x02C#10 v s = { s with winH := v.setWidth 16 } := rfl
theorem writeReg_argbuf (k : Fin 128) (v : Word) (s : State) :
    writeReg (BitVec.ofNat 10 (0x200 + 4 * k.val)) v s =
      { s with argbuf := s.argbuf.set k (v.setWidth 8) k.isLt } := by
  simp [writeReg]

/-- What a register write can change: one operand register and nothing else (R24 to R36, R69). -/
theorem writeReg_cases (off : BitVec 10) (v : Word) (s : State) :
    writeReg off v s = s ∨
    (∃ r, writeReg off v s = { s with seqStart := r }) ∨ (∃ r, writeReg off v s = { s with cmd := r }) ∨
    (∃ r, writeReg off v s = { s with madctl := r }) ∨ (∃ r, writeReg off v s = { s with frmctr := r }) ∨
    (∃ r, writeReg off v s = { s with winX := r }) ∨ (∃ r, writeReg off v s = { s with winY := r }) ∨
    (∃ r, writeReg off v s = { s with winW := r }) ∨ (∃ r, writeReg off v s = { s with winH := r }) ∨
    (∃ r, writeReg off v s = { s with argbuf := r }) := by
  unfold writeReg
  split
  · simp only [or_iff_not_imp_left]
    intros
    exact ⟨_, rfl⟩
  · split <;> first
      | exact .inl rfl
      | exact .inr (.inl ⟨_, rfl⟩)
      | exact .inr (.inr (.inl ⟨_, rfl⟩))
      | exact .inr (.inr (.inr (.inl ⟨_, rfl⟩)))
      | exact .inr (.inr (.inr (.inr (.inl ⟨_, rfl⟩))))
      | exact .inr (.inr (.inr (.inr (.inr (.inl ⟨_, rfl⟩)))))
      | exact .inr (.inr (.inr (.inr (.inr (.inr (.inl ⟨_, rfl⟩))))))
      | exact .inr (.inr (.inr (.inr (.inr (.inr (.inr (.inl ⟨_, rfl⟩)))))))
      | exact .inr (.inr (.inr (.inr (.inr (.inr (.inr (.inr (.inl ⟨_, rfl⟩))))))))

/-- What a host access leaves, in one of four ways: CTRL runs an instruction, another register is written, a read answers,
or the access has no meaning (R22, R67, R69). -/
theorem writeTurn_cases (off : BitVec 10) (bytes : Nat) (v : Word) (s : State) :
    (accessOk off bytes = true ∧ off = 0#10 ∧ writeTurn off bytes v s = exec (decodeCtrl v) s) ∨
    (accessOk off bytes = true ∧ off ≠ 0#10 ∧ writeTurn off bytes v s = .next (writeReg off v s)) ∨
    (accessOk off bytes = false ∧ writeTurn off bytes v s = .refused .hostAccessForm) := by
  unfold writeTurn
  by_cases ha : accessOk off bytes = true
  · by_cases ho : off = 0#10
    · exact .inl ⟨ha, ho, by rw [if_pos ha, if_pos ho]⟩
    · exact .inr (.inl ⟨ha, ho, by rw [if_pos ha, if_neg ho]⟩)
  · exact .inr (.inr ⟨by simpa using ha, by simp [ha]⟩)

end Sys2Proof.Machine
end

