-- ==== Sys2Proof/Laws/PerInstr.lean ====
section
/-! SUPPORT. Statements made per instruction. `EncodeSize`: the words an instruction encodes to have the size the spec gives it
(spec/30_encoding.md R81, R84, R91): a descriptor is 1, 2 + N or 3 + N bytes, at most 130; a CTRL write is one word. -/

namespace Sys2Proof

/-- The length of a descriptor in bytes (R84); none for a CTRL write. -/
def Instr.descriptorLength? : Instr → Option Nat
  | .endSeq => some 1
  | .cmd _ args => some (2 + args.length)
  | .cmdd _ args _ => some (3 + args.length)
  | .nop _ _ => none
  | .sendCmd _ _ => none
  | .runSeq _ _ => none
  | .configure _ _ => none
  | .setWindow _ _ => none
  | .fill _ _ => none
  | .reservedOp67 _ _ _ => none
  | .reservedOp815 _ _ _ => none
  | .srst _ => none
  | .errclr _ _ => none

namespace Laws.EncodeSize

/-- A well-formed instruction encodes to as many bytes as the spec says, or to one CTRL word. -/
def Statement (i : Instr) : Prop :=
  i.wellFormed = true →
    match i.descriptorLength? with
    | some n => ∃ bs, encode i = .descriptor bs ∧ bs.length = n ∧ n ≤ maxDescriptor
    | none => ∃ w, encode i = .ctrl w

theorem endSeq : Statement .endSeq := fun _ => ⟨_, rfl, rfl, by decide⟩

theorem cmd (opc : Byte) (args : List Byte) : Statement (.cmd opc args) := by
  intro h
  refine ⟨_, rfl, by simp; omega, ?_⟩
  simp only [Instr.wellFormed, descriptorOk, Bool.and_eq_true, decide_eq_true_eq, maxArgs] at h
  simp only [maxDescriptor]
  omega

theorem cmdd (opc : Byte) (args : List Byte) (ms : Byte) : Statement (.cmdd opc args ms) := by
  intro h
  refine ⟨_, rfl, by simp; omega, ?_⟩
  simp only [Instr.wellFormed, descriptorOk, Bool.and_eq_true, decide_eq_true_eq, maxArgs] at h
  simp only [maxDescriptor]
  omega

theorem nop (e : Bool) (x : BitVec 26) : Statement (.nop e x) := fun _ => ⟨_, rfl⟩
theorem sendCmd (e : Bool) (x : BitVec 26) : Statement (.sendCmd e x) := fun _ => ⟨_, rfl⟩
theorem runSeq (e : Bool) (x : BitVec 26) : Statement (.runSeq e x) := fun _ => ⟨_, rfl⟩
theorem configure (e : Bool) (x : BitVec 26) : Statement (.configure e x) := fun _ => ⟨_, rfl⟩
theorem setWindow (e : Bool) (x : BitVec 26) : Statement (.setWindow e x) := fun _ => ⟨_, rfl⟩
theorem fill (e : Bool) (x : BitVec 26) : Statement (.fill e x) := fun _ => ⟨_, rfl⟩
theorem reservedOp67 (e : Bool) (x : BitVec 26) (r : BitVec 1) : Statement (.reservedOp67 e x r) :=
  fun _ => ⟨_, rfl⟩
theorem reservedOp815 (e : Bool) (x : BitVec 26) (r : BitVec 3) : Statement (.reservedOp815 e x r) :=
  fun _ => ⟨_, rfl⟩
theorem srst (x : BitVec 31) : Statement (.srst x) := fun _ => ⟨_, rfl⟩
theorem errclr (x : BitVec 26) (op : BitVec 4) : Statement (.errclr x op) := fun _ => ⟨_, rfl⟩

end Laws.EncodeSize

end Sys2Proof
end

