-- ==== Sys2Proof/Laws/Step.lean ====
section
/-! SUPPORT. What a step can do, said once (spec/40_command_engine.md R111, R121, spec/60_exceptions.md R191): every claim about
`step` starts from `step_cases`. -/

namespace Sys2Proof.Machine

/-- The state in which a turn is taken: the turn itself is used up. -/
def State.afterTurn (s : State) : State := { s with turns := s.laterTurns }

@[simp] theorem State.afterTurn_cfg (s : State) : s.afterTurn.cfg = s.cfg := rfl
@[simp] theorem State.afterTurn_seqmem (s : State) : s.afterTurn.seqmem = s.seqmem := rfl
@[simp] theorem State.afterTurn_eng (s : State) : s.afterTurn.eng = s.eng := rfl
@[simp] theorem State.afterTurn_pend (s : State) : s.afterTurn.pend = s.pend := rfl
@[simp] theorem State.afterTurn_sp (s : State) : s.afterTurn.sp = s.sp := rfl
@[simp] theorem State.afterTurn_reject (s : State) : s.afterTurn.reject = s.reject := rfl
@[simp] theorem State.afterTurn_badop (s : State) : s.afterTurn.badop = s.badop := rfl
@[simp] theorem State.afterTurn_cause (s : State) : s.afterTurn.cause = s.cause := rfl
@[simp] theorem State.afterTurn_seqStart (s : State) : s.afterTurn.seqStart = s.seqStart := rfl
@[simp] theorem State.afterTurn_seqCur (s : State) : s.afterTurn.seqCur = s.seqCur := rfl
@[simp] theorem State.afterTurn_faultPtr (s : State) : s.afterTurn.faultPtr = s.faultPtr := rfl
@[simp] theorem State.afterTurn_cmd (s : State) : s.afterTurn.cmd = s.cmd := rfl
@[simp] theorem State.afterTurn_madctl (s : State) : s.afterTurn.madctl = s.madctl := rfl
@[simp] theorem State.afterTurn_frmctr (s : State) : s.afterTurn.frmctr = s.frmctr := rfl
@[simp] theorem State.afterTurn_winX (s : State) : s.afterTurn.winX = s.winX := rfl
@[simp] theorem State.afterTurn_winY (s : State) : s.afterTurn.winY = s.winY := rfl
@[simp] theorem State.afterTurn_winW (s : State) : s.afterTurn.winW = s.winW := rfl
@[simp] theorem State.afterTurn_winH (s : State) : s.afterTurn.winH = s.winH := rfl
@[simp] theorem State.afterTurn_argbuf (s : State) : s.afterTurn.argbuf = s.argbuf := rfl
@[simp] theorem State.afterTurn_stage (s : State) : s.afterTurn.stage = s.stage := rfl
@[simp] theorem State.afterTurn_csN (s : State) : s.afterTurn.csN = s.csN := rfl
@[simp] theorem State.afterTurn_dc (s : State) : s.afterTurn.dc = s.dc := rfl
@[simp] theorem State.afterTurn_tr (s : State) : s.afterTurn.tr = s.tr := rfl
@[simp] theorem State.afterTurn_rdata (s : State) : s.afterTurn.rdata = s.rdata := rfl
@[simp] theorem State.afterTurn_draws (s : State) : s.afterTurn.draws = s.draws := rfl
@[simp] theorem State.afterTurn_turns (s : State) : s.afterTurn.turns = s.laterTurns := rfl

@[simp] theorem State.unfolded_cfg (s : State) : s.unfolded.cfg = s.cfg := rfl
@[simp] theorem State.unfolded_seqmem (s : State) : s.unfolded.seqmem = s.seqmem := rfl
@[simp] theorem State.unfolded_eng (s : State) : s.unfolded.eng = s.eng := rfl
@[simp] theorem State.unfolded_pend (s : State) : s.unfolded.pend = s.pendFull := rfl
@[simp] theorem State.unfolded_sp (s : State) : s.unfolded.sp = s.sp := rfl
@[simp] theorem State.unfolded_reject (s : State) : s.unfolded.reject = s.reject := rfl
@[simp] theorem State.unfolded_badop (s : State) : s.unfolded.badop = s.badop := rfl
@[simp] theorem State.unfolded_cause (s : State) : s.unfolded.cause = s.cause := rfl
@[simp] theorem State.unfolded_seqStart (s : State) : s.unfolded.seqStart = s.seqStart := rfl
@[simp] theorem State.unfolded_seqCur (s : State) : s.unfolded.seqCur = s.seqCur := rfl
@[simp] theorem State.unfolded_faultPtr (s : State) : s.unfolded.faultPtr = s.faultPtr := rfl
@[simp] theorem State.unfolded_cmd (s : State) : s.unfolded.cmd = s.cmd := rfl
@[simp] theorem State.unfolded_madctl (s : State) : s.unfolded.madctl = s.madctl := rfl
@[simp] theorem State.unfolded_frmctr (s : State) : s.unfolded.frmctr = s.frmctr := rfl
@[simp] theorem State.unfolded_winX (s : State) : s.unfolded.winX = s.winX := rfl
@[simp] theorem State.unfolded_winY (s : State) : s.unfolded.winY = s.winY := rfl
@[simp] theorem State.unfolded_winW (s : State) : s.unfolded.winW = s.winW := rfl
@[simp] theorem State.unfolded_winH (s : State) : s.unfolded.winH = s.winH := rfl
@[simp] theorem State.unfolded_argbuf (s : State) : s.unfolded.argbuf = s.argbuf := rfl
@[simp] theorem State.unfolded_stage (s : State) : s.unfolded.stage = s.stage := rfl
@[simp] theorem State.unfolded_csN (s : State) : s.unfolded.csN = s.csN := rfl
@[simp] theorem State.unfolded_dc (s : State) : s.unfolded.dc = s.dc := rfl
@[simp] theorem State.unfolded_tr (s : State) : s.unfolded.tr = s.tr := rfl
@[simp] theorem State.unfolded_rdata (s : State) : s.unfolded.rdata = s.rdata := rfl
@[simp] theorem State.unfolded_draws (s : State) : s.unfolded.draws = s.draws := rfl
@[simp] theorem State.unfolded_turns (s : State) : s.unfolded.turns = s.turns := rfl

@[simp] theorem State.withoutStage_cfg (s : State) : s.withoutStage.cfg = s.cfg := rfl
@[simp] theorem State.withoutStage_seqmem (s : State) : s.withoutStage.seqmem = s.seqmem := rfl
@[simp] theorem State.withoutStage_eng (s : State) : s.withoutStage.eng = s.eng := rfl
@[simp] theorem State.withoutStage_pend (s : State) : s.withoutStage.pend = s.pend := rfl
@[simp] theorem State.withoutStage_sp (s : State) : s.withoutStage.sp = s.sp := rfl
@[simp] theorem State.withoutStage_reject (s : State) : s.withoutStage.reject = s.reject := rfl
@[simp] theorem State.withoutStage_badop (s : State) : s.withoutStage.badop = s.badop := rfl
@[simp] theorem State.withoutStage_cause (s : State) : s.withoutStage.cause = s.cause := rfl
@[simp] theorem State.withoutStage_seqStart (s : State) : s.withoutStage.seqStart = s.seqStart := rfl
@[simp] theorem State.withoutStage_seqCur (s : State) : s.withoutStage.seqCur = s.seqCur := rfl
@[simp] theorem State.withoutStage_faultPtr (s : State) : s.withoutStage.faultPtr = s.faultPtr := rfl
@[simp] theorem State.withoutStage_cmd (s : State) : s.withoutStage.cmd = s.cmd := rfl
@[simp] theorem State.withoutStage_madctl (s : State) : s.withoutStage.madctl = s.madctl := rfl
@[simp] theorem State.withoutStage_frmctr (s : State) : s.withoutStage.frmctr = s.frmctr := rfl
@[simp] theorem State.withoutStage_winX (s : State) : s.withoutStage.winX = s.winX := rfl
@[simp] theorem State.withoutStage_winY (s : State) : s.withoutStage.winY = s.winY := rfl
@[simp] theorem State.withoutStage_winW (s : State) : s.withoutStage.winW = s.winW := rfl
@[simp] theorem State.withoutStage_winH (s : State) : s.withoutStage.winH = s.winH := rfl
@[simp] theorem State.withoutStage_argbuf (s : State) : s.withoutStage.argbuf = s.argbuf := rfl
@[simp] theorem State.withoutStage_csN (s : State) : s.withoutStage.csN = s.csN := rfl
@[simp] theorem State.withoutStage_dc (s : State) : s.withoutStage.dc = s.dc := rfl
@[simp] theorem State.withoutStage_tr (s : State) : s.withoutStage.tr = s.tr := rfl
@[simp] theorem State.withoutStage_rdata (s : State) : s.withoutStage.rdata = s.rdata := rfl
@[simp] theorem State.withoutStage_draws (s : State) : s.withoutStage.draws = s.draws := rfl
@[simp] theorem State.withoutStage_turns (s : State) : s.withoutStage.turns = s.turns := rfl

/-- Reaching the descriptor at `p`: END; a CMD or CMDD that fits, whose frame, wait and next pointer come to the front of
PEND; or an overrun (R121 to R124, R182). There is always a next state. -/
theorem runSeqHead_result (p : SeqPtr) (rest : List Action) (s : State) :
    (decodeDescriptor (bytesFrom s.cfg s.seqmem p.toNat) =
        .accepted .endSeq (bytesFrom s.cfg s.seqmem (p.toNat + 1)) ∧
      runSeqHead p rest s = .next { s with sp := p, seqCur := p, pend := .done :: rest }) ∨
    (∃ opc args q r, args.length ≤ maxArgs ∧
      decodeDescriptor (bytesFrom s.cfg s.seqmem p.toNat) = .accepted (.cmd opc args) r ∧
      q.toNat = p.toNat + (2 + args.length) ∧ q.toNat ≤ s.cfg.seqBytes ∧
      runSeqHead p rest s = .next
        { s with
          sp := p, seqCur := p, stage := stageCopy s.stage (opc :: args)
          pend := frameActions (opc :: args) ++ .seq q :: rest }) ∨
    (∃ opc args ms q r, args.length ≤ maxArgs ∧
      decodeDescriptor (bytesFrom s.cfg s.seqmem p.toNat) = .accepted (.cmdd opc args ms) r ∧
      q.toNat = p.toNat + (3 + args.length) ∧ q.toNat ≤ s.cfg.seqBytes ∧
      runSeqHead p rest s = .next
        { s with
          sp := p, seqCur := p, stage := stageCopy s.stage (opc :: args)
          pend := frameActions (opc :: args) ++ [.ev (.wait ms), .hold ms] ++ .seq q :: rest }) ∨
    (∃ e, decodeDescriptor (bytesFrom s.cfg s.seqmem p.toNat) = .rejected e ∧
      runSeqHead p rest s = .next { s with sp := p, seqCur := p, pend := .fault seqOverrun p :: rest }) := by
  cases hd : decodeDescriptor (bytesFrom s.cfg s.seqmem p.toNat) with
  | rejected e =>
    obtain ⟨e', he⟩ := fetchDescriptor_rejected (s := { s with sp := p, pend := rest }) hd
    refine .inr (.inr (.inr ⟨e, rfl, ?_⟩))
    simp only [runSeqHead, perform, he]
    rfl
  | accepted i r =>
    obtain ⟨r', hf⟩ := fetchDescriptor_accepted (s := { s with sp := p, pend := rest }) hd
    have hrun : runSeqHead p rest s = exec i { s with sp := p, pend := rest } := by
      simp only [runSeqHead, perform, hf]
    have hlen := bytesFrom_length s.cfg s.seqmem p.toNat
    rcases decodeDescriptor_cases hd with ⟨rfl, hb⟩ | ⟨opc, lf, args, rfl, ho, hdl, hl, hb⟩ |
      ⟨opc, lf, args, ms, rfl, ho, hdl, hl, hb⟩
    · refine .inl ⟨?_, by rw [hrun]; rfl⟩
      rw [hb] at hlen
      simp only [List.length_cons] at hlen
      have hs := bytesFrom_split (c := s.cfg) (m := s.seqmem) (p := p.toNat) (n := 1) (by omega)
      rw [hb] at hs
      rw [(List.cons.inj hs).2]
      rfl
    · have hn := lenFlagsCount_le lf
      rw [hb] at hlen
      simp only [List.length_cons, List.length_append] at hlen
      have hfit : p.toNat + (2 + args.length) ≤ s.cfg.seqBytes := by omega
      have hstage : (opc :: args).length ≤ stageBytes := by
        simp only [List.length_cons, stageBytes, maxArgs] at *; omega
      refine .inr (.inl ⟨opc, args, _, r, by omega, rfl, nextPointer_toNat hfit, ?_, ?_⟩)
      · rw [nextPointer_toNat hfit]; exact hfit
      · rw [hrun, exec, execCmd, runDescriptor_fits (s := { s with sp := p, pend := rest }) hfit]
        simp only [frame_actions s.stage _ hstage (List.cons_ne_nil _ _), List.append_nil]
        rfl
    · have hn := lenFlagsCount_le lf
      rw [hb] at hlen
      simp only [List.length_cons, List.length_append] at hlen
      have hfit : p.toNat + (3 + args.length) ≤ s.cfg.seqBytes := by omega
      have hstage : (opc :: args).length ≤ stageBytes := by
        simp only [List.length_cons, stageBytes, maxArgs] at *; omega
      refine .inr (.inr (.inl ⟨opc, args, ms, _, r, by omega, rfl, nextPointer_toNat hfit, ?_, ?_⟩))
      · rw [nextPointer_toNat hfit]; exact hfit
      · rw [hrun, exec, execCmdd, runDescriptor_fits (s := { s with sp := p, pend := rest }) hfit]
        simp only [frame_actions s.stage _ hstage (List.cons_ne_nil _ _)]
        rfl

/-- What a step that answers a next state did. -/
theorem step_cases {s t : State} (h : step s = .next t) :
    (∃ w, s.nextTurn.ctrlWord? = some w ∧ exec (decodeCtrl w) s.afterTurn = .next t) ∨
    (∃ off bytes v, s.nextTurn = .write off bytes v ∧ s.nextTurn.ctrlWord? = none ∧ t = writeReg off v s.afterTurn) ∨
    (∃ off bytes, s.nextTurn = .read off bytes ∧ t = hostRead off s.afterTurn) ∨
    (s.nextTurn = .tick ∧ t = tickAction s.afterTurn) ∨
    (s.nextTurn = .rstN ∧ t = resetAction s.afterTurn) ∨
    (s.nextTurn = .engine ∧ s.eng ≠ .busy ∧ t = s.afterTurn) ∨
    (s.nextTurn = .engine ∧ s.eng = .busy ∧ ∃ a rest, s.pend = a :: rest ∧ (∀ p, a ≠ .seq p) ∧
      t = perform a rest s.afterTurn) ∨
    (s.nextTurn = .engine ∧ s.eng = .busy ∧ ∃ p rest, s.pend = .seq p :: rest ∧
      runSeqHead p rest s.afterTurn = .next t) := by
  rw [step_eq] at h
  change takeTurn s.nextTurn s.afterTurn = .next t at h
  cases hn : s.nextTurn with
  | write off bytes v =>
    rw [hn] at h
    rcases writeTurn_cases off bytes v s.afterTurn with ⟨ha, ho, hw⟩ | ⟨ha, ho, hw⟩ | ⟨ha, hw⟩
    · exact .inl ⟨v, by subst ho; simp [Turn.ctrlWord?, ha], hw.symm.trans h⟩
    · refine .inr (.inl ⟨off, bytes, v, rfl, by simp [Turn.ctrlWord?, ho], ?_⟩)
      have := hw.symm.trans h
      simpa using this.symm
    · have := hw.symm.trans h
      cases this
  | read off bytes =>
    rw [hn] at h
    refine .inr (.inr (.inl ⟨off, bytes, rfl, ?_⟩))
    simp only [takeTurn, readTurn] at h
    split at h
    · simpa using h.symm
    · cases h
  | engine =>
    rw [hn] at h
    simp only [takeTurn] at h
    by_cases hb : s.eng = .busy
    · cases hp : s.pend with
      | nil =>
        have : engineTurn s.afterTurn = .fault .emptyPending := by
          simp [engineTurn, State.afterTurn, hb, hp]
        rw [this] at h
        cases h
      | cons a rest =>
        by_cases ha : ∃ p, a = .seq p
        · obtain ⟨p, rfl⟩ := ha
          rw [engineTurn_seq (s := s.afterTurn) hb hp] at h
          exact .inr (.inr (.inr (.inr (.inr (.inr (.inr ⟨rfl, hb, p, rest, rfl, h⟩))))))
        · have ha' : ∀ p, a ≠ .seq p := fun p hp => ha ⟨p, hp⟩
          rw [engineTurn_action (s := s.afterTurn) hb hp ha'] at h
          exact .inr (.inr (.inr (.inr (.inr (.inr (.inl ⟨rfl, hb, a, rest, rfl, ha', by simpa using h.symm⟩))))))
    · rw [engineTurn_quiet (s := s.afterTurn) hb] at h
      exact .inr (.inr (.inr (.inr (.inr (.inl ⟨rfl, hb, by simpa using h.symm⟩)))))
  | tick =>
    rw [hn] at h
    exact .inr (.inr (.inr (.inl ⟨rfl, by simpa [takeTurn] using h.symm⟩)))
  | rstN =>
    rw [hn] at h
    exact .inr (.inr (.inr (.inr (.inl ⟨rfl, by simpa [takeTurn] using h.symm⟩))))

/-- A step with a turn placed takes that turn. -/
theorem step_turn {s : State} {u : Turn} {later : List Turn} (h : s.turns = u :: later) :
    step s = takeTurn u { s with turns := later } := by
  rw [step_eq]
  simp only [State.nextTurn, State.laterTurns, h]
  rfl

/-- An engine that reaches a descriptor fetches it, whether the engine's turn was placed or is its own. -/
theorem step_seq {s : State} {p : SeqPtr} {rest : List Action} {later : List Turn} (hb : s.eng = .busy)
    (hp : s.pend = .seq p :: rest) (ht : s.turns = .engine :: later ∨ (s.turns = [] ∧ later = [])) :
    step s = runSeqHead p rest { s with turns := later } := by
  have hown : ownTurn s = .engine := by simp [ownTurn, State.waiting, State.dly, hp]
  have hnext : s.nextTurn = .engine := by
    rcases ht with h | ⟨h, _⟩ <;> simp [State.nextTurn, h, hown]
  have hlater : s.laterTurns = later := by
    rcases ht with h | ⟨h, h'⟩
    · simp [State.laterTurns, h]
    · simp [State.laterTurns, h, h']
  rw [step_eq, hnext, hlater]
  exact engineTurn_seq (s := { s with turns := later }) hb hp

/-- A run of any machine begins with one step. -/
theorem core_run_succ (M : Host.Core) (k : Nat) (s : M.State) :
    M.run (k + 1) s =
      match M.step s with
      | .next s' => M.run k s'
      | .fault r => .fault r
      | .refused r => .refused r := rfl

/-- A run goes on from where its first step leads. -/
theorem run_next {s t : State} (k : Nat) (h : step s = .next t) :
    Host.Core.run Sys2Proof.core (k + 1) s = Host.Core.run Sys2Proof.core k t := by
  have hs : Sys2Proof.core.step s = .next t := h
  exact (core_run_succ Sys2Proof.core k s).trans (by rw [hs])

end Sys2Proof.Machine
end

