-- ==== Sys2Proof/Tests/Slice0.lean ====
section
/-! SUPPORT. The model's own tests: the WellFormed smoke tests, words written out from spec/30_encoding.md, the vectors of
spec/95_test_vectors.md (V<n>) one step at a time, and for every statement with hypotheses a witness that meets them. -/

namespace Sys2Proof.Tests

open Sys2Proof Sys2Proof.Machine

/-! ### States the tests start from -/

/-- The parameters of 95_test_vectors.md: the default opcodes, and a SEQMEM of `n` bytes. -/
def testCfg (n : Nat) (o : FillOrder) : Params :=
  ⟨BitVec.ofNat 16 (n - 1), 0, 0x36#8, 0xB1#8, 0x2B#8, 0x2A#8, 0x2C#8, o⟩

/-- The state at reset with the bytes `bs` in SEQMEM and the turns `ts` to come. -/
def idle (bs : List Byte) (ts : List Turn) : State :=
  { State.initial (testCfg bs.length .columnMajor) (Memory.load 0 bs) 0 with turns := ts }

/-- The engine BUSY between two frames, with `as` to do. -/
def busy (bs : List Byte) (as : List Action) (ts : List Turn) : State :=
  { idle bs ts with eng := .busy, pend := as }

/-- The engine BUSY inside a frame, after CS(0) and DC(0). -/
def inFrame (as : List Action) (ts : List Turn) : State :=
  { busy [0x00#8] as ts with csN := .low, dc := .low, tr := [.cs .low, .dc .low] }

/-- The engine halted as after V20: STATUS 0x102, FAULT_PTR = SEQ_CUR = 2. -/
def halted (ts : List Turn) : State :=
  { idle [0x29#8, 0x00#8] ts with eng := .fault, cause := 1#4, faultPtr := 2#17, seqCur := 2#17, sp := 2#17 }

/-- A 32-bit host write. -/
def wr (off : BitVec 10) (v : Word) : Turn := .write off 4 v

/-- What a step's next state shows, `none` where there is none. -/
def after {α : Type} (s : State) (f : State → α) : Option α :=
  match step s with
  | .next t => some (f t)
  | _ => none

/-! ### WellFormed refuses -/

theorem test_wellFormed_refuses_cmd_opcode_zero : (Instr.cmd 0x00#8 []).wellFormed = false := by decide
theorem test_wellFormed_refuses_cmd_128_args :
    (Instr.cmd 0x2C#8 (List.replicate 128 0#8)).wellFormed = false := by simp [Instr.wellFormed, descriptorOk]
theorem test_wellFormed_refuses_cmdd_opcode_zero : (Instr.cmdd 0x00#8 [] 5#8).wellFormed = false := by decide
theorem test_wellFormed_refuses_cmdd_128_args :
    (Instr.cmdd 0x2C#8 (List.replicate 128 0#8) 5#8).wellFormed = false := by simp [Instr.wellFormed, descriptorOk]
theorem test_wellFormed_refuses_nop_errclr : (Instr.nop true 0#26).wellFormed = false := by decide
theorem test_wellFormed_refuses_errclr_op : (Instr.errclr 0#26 1#4).wellFormed = false := by decide
theorem test_wellFormed_accepts_127_args :
    (Instr.cmdd 0x2C#8 (List.replicate 127 0#8) 5#8).wellFormed = true := by simp [Instr.wellFormed, descriptorOk]

/-! ### Words written out from R80, R81, R84 -/

theorem test_decode_end : decodeTableWord 16 0b00000000_01010101 = some .endSeq := by decide
theorem test_decode_cmd : decodeDescriptor [0b00111010#8, 0b00000001#8, 0b00000101#8] =
    .accepted (.cmd 0x3A#8 [0x05#8]) [] := by decide
theorem test_decode_cmdd : decodeDescriptor [0b10110001#8, 0b10000011#8, 0x01#8, 0x2C#8, 0x2D#8, 0x32#8] =
    .accepted (.cmdd 0xB1#8 [0x01#8, 0x2C#8, 0x2D#8] 0x32#8) [] := by decide
theorem test_decode_table_cmd : decodeTableWord 16 0b00111010_00000001 = some (.cmd 0x3A#8 [0x00#8]) := by decide
theorem test_decode_table_cmdd : decodeTableWord 16 0b00010001_10000000 = some (.cmdd 0x11#8 [] 0x00#8) := by decide
theorem test_decode_nop : decodeCtrl 0b0_0_00000000000000000000000001_0000#32 = .nop false 1#26 := by decide
theorem test_decode_sendCmd : decodeCtrl 0b0_0_00000000000000000000000000_0001#32 = .sendCmd false 0#26 := by decide
theorem test_decode_runSeq : decodeCtrl 0b0_1_00000000000000000000000000_0010#32 = .runSeq true 0#26 := by decide
theorem test_decode_configure : decodeCtrl 0b0_0_10000000000000000000000000_0011#32 = .configure false 0x2000000#26 := by
  decide
theorem test_decode_setWindow : decodeCtrl 0b0_0_00000000000000000000000000_0100#32 = .setWindow false 0#26 := by decide
theorem test_decode_fill : decodeCtrl 0b0_1_00000000000000000000000011_0101#32 = .fill true 3#26 := by decide
theorem test_decode_reserved6 : decodeCtrl 0b0_0_00000000000000000000000000_0110#32 = .reservedOp67 false 0#26 0#1 := by
  decide
theorem test_decode_reserved7 : decodeCtrl 0b0_1_00000000000000000000000000_0111#32 = .reservedOp67 true 0#26 1#1 := by
  decide
theorem test_decode_reserved8 : decodeCtrl 0b0_0_00000000000000000000000000_1000#32 = .reservedOp815 false 0#26 0#3 := by
  decide
theorem test_decode_reserved15 : decodeCtrl 0b0_0_00000000000000000000000000_1111#32 = .reservedOp815 false 0#26 7#3 := by
  decide
theorem test_decode_srst : decodeCtrl 0b1_1_00000000000000000000000000_0010#32 = .srst 0x40000002#31 := by decide
theorem test_decode_errclr : decodeCtrl 0b0_1_00000000000000000000000000_0000#32 = .errclr 0#26 0#4 := by decide

/-- The three cases of R182 are the three rejections. -/
theorem test_decode_rejects :
    decodeDescriptor [] = .rejected .opcodeOutside ∧
    decodeDescriptor [0x11#8] = .rejected .lenFlagsOutside ∧
    decodeDescriptor [0x11#8, 0x80#8] = .rejected .bodyOutside ∧
    decodeDescriptor [0x3A#8, 0x03#8, 0x01#8, 0x02#8] = .rejected .bodyOutside := by decide

/-! ### From reset, the next step runs the instruction that is placed -/

theorem test_reset_runs_nothing : step State.reset = .next State.reset := rfl
/-- The header 0x00FF of END at State.reset: the byte after the sentinel is not read (R124). -/
theorem test_place_end : after (State.reset.withFetchWord 16 0x00FF) (fun t => (t.pend, t.seqCur)) =
    some ([.done], 0#17) := by decide
/-- V64, placed as a table word at State.reset. -/
theorem test_place_reservedOp67 : after (State.reset.withFetchWord 32 6) (fun t => (t.badop, t.eng)) = some (true, .idle) := by
  decide

/-! ### Vectors, one step of each instruction -/

/-- V1: the start of SEND_CMD. -/
theorem test_sendCmd : after
    { idle [0x00#8] [wr 0#10 1#32] with
      cmd := 0x13A#15, argbuf := (Vector.replicate 128 0#8).set 0 0x05#8 (by decide) }
    (fun t => (t.eng, t.pend)) =
    some (.busy, [.ev (.cs .low), .ev (.dc .low), .ev (.tx 0x3A#8), .ev (.dc .high), .ev (.tx 0x05#8), .ev (.cs .high),
      .done]) := by decide
/-- V18: RUN_SEQ starts at SEQ_START. -/
theorem test_runSeq : after { idle [0x29#8, 0#8, 0#8, 0x13#8, 0#8, 0#8] [wr 0#10 2#32] with seqStart := 3#16 }
    (fun t => (t.eng, t.sp, eventsOf t.pendFull)) =
    some (.busy, 3#17, [.cs .low, .dc .low, .tx 0x13#8, .dc .high, .cs .high]) := by decide
/-- V27: the first fetch of a start far outside SEQMEM. -/
theorem test_runSeq_outside : after (busy [0x00#8] [.seq 0xFFFF#17] []) (fun t => (t.seqCur, t.pend)) =
    some (0xFFFF#17, [.fault 1#4 0xFFFF#17]) := by decide
/-- V31: the short form of the frame-rate command. -/
theorem test_configure_short : after { idle [0x00#8] [wr 0#10 3#32] with madctl := 0x08#8, frmctr := 0x0000FF#24 }
    (fun t => eventsOf t.pend) =
    some [.cs .low, .dc .low, .tx 0x36#8, .dc .high, .tx 0x08#8, .cs .high,
      .cs .low, .dc .low, .tx 0xB1#8, .dc .high, .tx 0x00#8, .tx 0x00#8, .cs .high] := by decide
/-- V33: only the low byte is tested. -/
theorem test_configure_long : after { idle [0x00#8] [wr 0#10 3#32] with frmctr := 0x00FF00#24 }
    (fun t => (eventsOf t.pend).drop 10) = some [.tx 0x00#8, .tx 0xFF#8, .tx 0x00#8, .cs .high] := by decide
/-- V40: the row frame first, with the inclusive ends 0xA9 and 0x93. -/
theorem test_setWindow : after
    { idle [0x00#8] [wr 0#10 4#32] with winX := 10#16, winY := 20#16, winW := 160#16, winH := 128#16 }
    (fun t => eventsOf t.pend) =
    some [.cs .low, .dc .low, .tx 0x2B#8, .dc .high, .tx 0x00#8, .tx 0x0A#8, .tx 0x00#8, .tx 0xA9#8, .cs .high,
      .cs .low, .dc .low, .tx 0x2A#8, .dc .high, .tx 0x00#8, .tx 0x14#8, .tx 0x00#8, .tx 0x93#8, .cs .high] := by decide
/-- V43: an end that wraps to 0. -/
theorem test_setWindow_wraps : after { idle [0x00#8] [wr 0#10 4#32] with winX := 0xFFFF#16, winW := 2#16, winH := 1#16 }
    (fun t => (eventsOf t.pend).take 8) =
    some [.cs .low, .dc .low, .tx 0x2B#8, .dc .high, .tx 0xFF#8, .tx 0xFF#8, .tx 0x00#8, .tx 0x00#8] := by decide
/-- V50: column_major. -/
theorem test_fill_column_major : after { idle [0x00#8] [wr 0#10 5#32] with winW := 2#16, winH := 2#16 }
    (fun t => eventsOf t.pend) =
    some [.cs .low, .dc .low, .tx 0x2C#8, .dc .high, .tx 0#8, .tx 0#8, .tx 0#8, .tx 0#8, .tx 0#8, .tx 2#8, .tx 0#8,
      .tx 2#8, .cs .high] := by decide
/-- V51: row_major. -/
theorem test_fill_row_major : after
    { idle [0x00#8] [wr 0#10 5#32] with cfg := testCfg 1 .rowMajor, winW := 2#16, winH := 2#16 }
    (fun t => (eventsOf t.pend).drop 4) =
    some [.tx 0#8, .tx 0#8, .tx 0#8, .tx 2#8, .tx 0#8, .tx 0#8, .tx 0#8, .tx 2#8, .cs .high] := by decide
/-- V71: NOP with ERRCLR while BUSY. -/
theorem test_errclr_busy : after { busy [0x00#8] [.done] [wr 0#10 0x40000000#32] with reject := true }
    (fun t => readReg 0x004#10 t) = some 1#32 := by decide
/-- V73: a reserved bit has no effect. -/
theorem test_nop_reserved_bit : after (idle [0x00#8] [wr 0#10 0x10#32])
    (fun t => (readReg 0x004#10 t, t.tr)) = some (0#32, []) := by decide
/-- V66: ERRCLR first, then BADOP. -/
theorem test_reservedOp67_errclr : after { idle [0x00#8] [wr 0#10 0x40000006#32] with badop := true, reject := true }
    (fun t => readReg 0x004#10 t) = some 8#32 := by decide
/-- V65. -/
theorem test_reservedOp815 : after (idle [0x00#8] [wr 0#10 0xF#32]) (fun t => readReg 0x004#10 t) = some 8#32 := by decide
/-- V69: SRST in FAULT. -/
theorem test_srst_fault : after (halted [wr 0#10 0x80000000#32])
    (fun t => (readReg 0x004#10 t, t.faultPtr, t.seqCur, t.tr)) = some (0#32, 0#17, 0#17, [.rst]) := by decide
/-- V70: SRST while BUSY. -/
theorem test_srst_busy : after (busy [0x00#8] [.done] [wr 0#10 0x80000000#32])
    (fun t => (readReg 0x004#10 t, t.tr, t.pend)) = some (5#32, [], [.done]) := by decide
/-- V68: FAULT stays. -/
theorem test_errclr_fault : after { halted [wr 0#10 0x40000000#32] with reject := true }
    (fun t => readReg 0x004#10 t) = some 0x102#32 := by decide
/-- R189: the refused start sets REJECT again. -/
theorem test_sendCmd_errclr_then_refused : after { busy [0x00#8] [.done] [wr 0#10 0x40000001#32] with reject := true }
    (fun t => readReg 0x004#10 t) = some 5#32 := by decide
/-- V13: the delay byte follows the arguments. -/
theorem test_cmdd : after (busy [0xB1#8, 0x83#8, 0x01#8, 0x2C#8, 0x2D#8, 0x32#8, 0x00#8] [.seq 0#17] [])
    (fun t => (t.seqCur, t.pend.drop 4)) =
    some (0#17, [.ev (.tx 0x01#8), .ev (.tx 0x2C#8), .ev (.tx 0x2D#8), .ev (.cs .high), .ev (.wait 50#8), .hold 50#8,
      .seq 6#17]) := by decide
/-- V22: the delay byte is missing. -/
theorem test_cmdd_overrun : after (busy [0x11#8, 0x80#8] [.seq 0#17] []) (fun t => (t.seqCur, t.pend)) =
    some (0#17, [.fault 1#4 0#17]) := by decide
/-- V16: argument bytes equal to 0 are data. -/
theorem test_cmd : after (busy [0x3A#8, 0x02#8, 0#8, 0#8, 0#8] [.seq 0#17] []) (fun t => (t.seqCur, t.pend)) =
    some (0#17, [.ev (.cs .low), .ev (.dc .low), .ev (.tx 0x3A#8), .ev (.dc .high), .ev (.tx 0#8), .ev (.tx 0#8),
      .ev (.cs .high), .seq 4#17]) := by decide
/-- V26: the third argument is missing. -/
theorem test_cmd_overrun : after (busy [0x3A#8, 0x03#8, 0x01#8, 0x02#8] [.seq 0#17] []) (fun t => (t.seqCur, t.pend)) =
    some (0#17, [.fault 1#4 0#17]) := by decide
/-- V25: END in the last byte is legal. -/
theorem test_end : after (busy [0x29#8, 0#8, 0#8] [.seq 2#17] []) (fun t => (t.seqCur, t.pend)) =
    some (2#17, [.done]) := by decide

/-! ### Vectors of the other turns -/

/-- V5, V75, V76: reserved bits are discarded. -/
theorem test_register_masks :
    after (idle [0x00#8] [wr 0x014#10 0xFFFFFFFF#32]) (readReg 0x014#10) = some 0x7FFF#32 ∧
    after (idle [0x00#8] [wr 0x020#10 0x12345678#32]) (readReg 0x020#10) = some 0x5678#32 ∧
    after (idle [0x00#8] [wr 0x008#10 0x0001ABCD#32]) (readReg 0x008#10) = some 0xABCD#32 ∧
    after (idle [0x00#8] [wr 0x3FC#10 0x1FF#32]) (readReg 0x3FC#10) = some 0xFF#32 := by decide
/-- V24: the fault action at the head of PEND gives STATUS 0x102 and FAULT_PTR 4. -/
theorem test_fault : after (busy [0x29#8, 0#8, 0#8, 0#8] [.fault 1#4 4#17] [])
    (fun t => (readReg 0x004#10 t, t.faultPtr, t.seqCur, t.tr)) = some (0x102#32, 4#17, 4#17, []) := by decide
/-- V80: RST_N in the middle of a frame. -/
theorem test_rstN : after (inFrame [.ev (.tx 0x2C#8), .ev (.dc .high), .ev (.cs .high), .done] [.rstN])
    (fun t => (t.eng, t.csN, t.dc, t.tr, t.pend)) = some (.idle, .high, .high, [.cs .low, .dc .low, .rst], []) := by decide
/-- V14: hold(0) needs no tick, and hold(10) needs one to become hold(9). -/
theorem test_hold :
    after (busy [0x00#8] [.hold 0#8, .done] []) (fun t => t.pend) = some [.done] ∧
    after (busy [0x00#8] [.hold 10#8, .done] [.tick]) (fun t => t.pend) = some [.hold 9#8, .done] ∧
    after (busy [0x00#8] [.hold 10#8, .done] [.engine]) (fun t => t.pend) = some [.hold 10#8, .done] := by decide

/-! ### The hypotheses of the statements can be met -/

theorem inv_idle (ts : List Turn) : (idle [0x29#8, 0x00#8] ts).Inv :=
  ⟨rfl, rfl, rfl, fun h => absurd h (by simp [idle, State.initial]), fun _ => ⟨rfl, rfl, rfl⟩, rfl,
    by simp [idle, State.initial]⟩

theorem inv_busy (bs : List Byte) (as : List Action) (ts : List Turn)
    (hm : (Memory.load 0 bs).wf (testCfg bs.length .columnMajor).seqBytes = true) (h : closes .high .high as = true) :
    (busy bs as ts).Inv :=
  ⟨hm, rfl, rfl, fun _ => h, fun hb => absurd rfl hb, rfl, by simp [busy, idle, State.initial]⟩

theorem inv_inFrame (as : List Action) (ts : List Turn) (h : closes .low .low as = true) : (inFrame as ts).Inv :=
  ⟨rfl, rfl, rfl, fun _ => h, fun hb => absurd rfl hb, rfl, by simp [inFrame, busy, idle, State.initial]⟩

theorem inv_halted (ts : List Turn) : (halted ts).Inv :=
  ⟨rfl, rfl, rfl, fun h => absurd h (by simp [halted]), fun _ => ⟨rfl, rfl, rfl⟩, rfl, by simp [halted]⟩

/-- An instruction of every constructor is well-formed. -/
theorem witness_DecodeOfEncodeGivesInstructionBack :
    ∀ i ∈ [Instr.endSeq, .cmd 0xFF#8 (List.replicate 127 0#8), .cmdd 0x01#8 [] 255#8, .nop false 1#26, .sendCmd true 0#26,
      .runSeq false 0#26, .configure true 0#26, .setWindow false 0#26, .fill true 0#26, .reservedOp67 false 0#26 1#1,
      .reservedOp815 true 0#26 7#3, .srst 0#31, .errclr 5#26 0#4], i.wellFormed = true := by
  simp [Instr.wellFormed, descriptorOk]

theorem witness_DescriptorTakesExactlyItsBytes :
    decodeDescriptor [0x11#8, 0x80#8, 0x78#8, 0x00#8] = .accepted (.cmdd 0x11#8 [] 0x78#8) [0x00#8] := by decide

/-- N = 0 and N = 127, without and with the delay byte. -/
theorem witness_DecodingFollowsTheProcedure :
    (0x2C#8 : Byte) ≠ 0x00#8 ∧ ([] : List Byte).length = ((0x00#8 : Byte).extractLsb' 0 7).toNat ∧
    (List.replicate 127 (0x00#8 : Byte)).length = ((0xFF#8 : Byte).extractLsb' 0 7).toNat ∧
    (0x00#8 : Byte).getLsbD 7 = false ∧ (0xFF#8 : Byte).getLsbD 7 = true := by
  refine ⟨by decide, by decide, by simp, by decide, by decide⟩

/-- A word for each clause of R80, and the least and the greatest reserved OP. -/
theorem witness_OpSelectsTheOperation :
    (0x80000002#32 : Word).getLsbD 31 = true ∧ (0x7FFFFFF0#32 : Word).getLsbD 31 = false ∧
    ((0x7FFFFFF0#32 : Word).extractLsb' 0 4).toNat = 0 ∧ ((1#32 : Word).extractLsb' 0 4).toNat = 1 ∧
    ((2#32 : Word).extractLsb' 0 4).toNat = 2 ∧ ((3#32 : Word).extractLsb' 0 4).toNat = 3 ∧
    ((4#32 : Word).extractLsb' 0 4).toNat = 4 ∧ ((5#32 : Word).extractLsb' 0 4).toNat = 5 ∧
    ((6#32 : Word).extractLsb' 0 4).toNat ∈ [6, 7] ∧ ((7#32 : Word).extractLsb' 0 4).toNat ∈ [6, 7] ∧
    ((8#32 : Word).extractLsb' 0 4).toNat ≥ 8 ∧ ((15#32 : Word).extractLsb' 0 4).toNat ≥ 8 :=
  ⟨by decide, by decide, by decide, by decide, by decide, by decide, by decide, by decide, by decide, by decide, by decide,
    by decide⟩

/-- SRST, NOP, the least and the greatest start and reserved OP, in IDLE, BUSY and FAULT. -/
theorem witness_CtrlWriteIsHandledInOrder :
    (busy [0x00#8] [.done] [wr 0#10 0x80000000#32]).turns = .write 0x000#10 4 0x80000000#32 :: [] ∧
    (busy [0x00#8] [.done] []).eng = .busy ∧ (halted []).eng ≠ .busy ∧ (halted []).eng ≠ .idle ∧
    (idle [0x00#8] []).eng = .idle ∧ (0x80000000#32 : Word).getLsbD 31 = true ∧
    ((0x40000000#32 : Word).getLsbD 31 = false ∧ ((0x40000000#32 : Word).extractLsb' 0 4).toNat = 0) ∧
    ((6#32 : Word).getLsbD 31 = false ∧ 6 ≤ ((6#32 : Word).extractLsb' 0 4).toNat) ∧
    ((15#32 : Word).getLsbD 31 = false ∧ 6 ≤ ((15#32 : Word).extractLsb' 0 4).toNat) ∧
    (1 ≤ ((1#32 : Word).extractLsb' 0 4).toNat ∧ ((1#32 : Word).extractLsb' 0 4).toNat ≤ 5) ∧
    ((5#32 : Word).getLsbD 31 = false ∧ 1 ≤ ((5#32 : Word).extractLsb' 0 4).toNat ∧
      ((5#32 : Word).extractLsb' 0 4).toNat ≤ 5) :=
  ⟨rfl, rfl, by decide, by decide, rfl, by decide, by decide, by decide, by decide, by decide, by decide⟩

theorem witness_ResetAction :
    (halted []).eng ≠ .busy ∧ (idle [0x00#8] []).eng ≠ .busy ∧ (busy [0x00#8] [.done] []).eng = .busy ∧
    (inFrame [] [.rstN]).nextTurn = .rstN := by decide

theorem witness_StepRunsCtrlWrite :
    (idle [0x00#8] [wr 0#10 1#32, .engine]).turns = .write 0x000#10 4 1#32 :: [.engine] := rfl

/-- Both forms of the engine's turn, and a descriptor at the last place it fits. -/
theorem witness_StepRunsDescriptorAtPointer :
    let s := busy [0x29#8, 0x00#8] [.seq 0#17] [.engine]
    let s' := busy [0x29#8, 0x00#8] [.seq 1#17] []
    (s.eng = .busy ∧ s.pend = [.seq 0#17] ∧ s.turns = .engine :: [] ∧
      decodeDescriptor (bytesFrom s.cfg s.seqmem 0) = .accepted (.cmd 0x29#8 []) []) ∧
    (s'.eng = .busy ∧ s'.pend = [.seq 1#17] ∧ s'.turns = [] ∧
      decodeDescriptor (bytesFrom s'.cfg s'.seqmem 1) = .accepted .endSeq []) := by decide

/-- Each case of R182 at its boundary: p = SEQ_BYTES; the opcode in the last byte; one byte short. -/
theorem witness_DescriptorOutsideSeqmemRaisesOverrun :
    let s := busy [0x29#8, 0x00#8] [.seq 2#17] [.engine]
    let s' := busy [0x11#8] [.seq 0#17] []
    let s'' := busy [0x11#8, 0x80#8] [.seq 0#17] []
    (s.eng = .busy ∧ s.pend = [.seq 2#17] ∧ s.turns = .engine :: [] ∧ 2 ≥ s.cfg.seqBytes) ∧
    (s'.eng = .busy ∧ s'.pend = [.seq 0#17] ∧ s'.turns = [] ∧ s'.seqmem.read 0 ≠ 0#8 ∧ 0 + 1 ≥ s'.cfg.seqBytes) ∧
    (s''.eng = .busy ∧ s''.pend = [.seq 0#17] ∧ s''.turns = [] ∧ s''.seqmem.read 0 ≠ 0#8 ∧
      0 + 2 + ((s''.seqmem.read 1).extractLsb' 0 7).toNat + ((s''.seqmem.read 1).extractLsb' 7 1).toNat >
        s''.cfg.seqBytes) := by decide

/-- A CMD that just fits, and one that is a byte too long; 127 arguments are allowed. -/
theorem witness_CmdDescriptorEffect :
    let s := idle [0x3A#8, 0x01#8, 0x05#8] []
    [0x05#8].length ≤ 127 ∧ s.sp.toNat + 2 + [0x05#8].length ≤ s.cfg.seqBytes ∧
    s.sp.toNat + 2 + [0x05#8, 0x06#8].length > s.cfg.seqBytes ∧ (List.replicate 127 0#8).length ≤ 127 := by
  simp [idle, State.initial, testCfg, Params.seqBytes]

theorem witness_CmddDescriptorEffect :
    let s := idle [0x11#8, 0x80#8, 0x78#8] []
    ([] : List Byte).length ≤ 127 ∧ s.sp.toNat + 3 + ([] : List Byte).length ≤ s.cfg.seqBytes ∧
    s.sp.toNat + 3 + [0x05#8].length > s.cfg.seqBytes ∧ (List.replicate 127 0#8).length ≤ 127 := by
  simp [idle, State.initial, testCfg, Params.seqBytes]

theorem witness_StartWhileNotIdleIsRefused :
    (busy [0x00#8] [.done] []).eng ≠ .idle ∧ (halted []).eng ≠ .idle ∧
    Instr.fill true 0#26 ∈ [Instr.sendCmd true 0#26, .runSeq true 0#26, .configure true 0#26, .setWindow true 0#26,
      .fill true 0#26] := by decide

/-- The state of SendCmdStart, RunSeqStart, ConfigureStart, SetWindowStart and FillStart. -/
theorem witness_starts : (idle [0x00#8] []).eng = .idle := rfl

/-- The last pixel of a 129 by 1 frame (V54). -/
theorem witness_FillPixelAtItsPlace :
    let s := { idle [0x00#8] [] with winW := 129#16, winH := 1#16 }
    s.eng = .idle ∧ 128 < s.winW.toNat ∧ 0 < s.winH.toNat := by decide

theorem witness_ErrclrClearsThenPerformsOp : (6#4 : BitVec 4).toNat ≥ 6 ∧ (15#4 : BitVec 4).toNat ≥ 6 := by decide

/-- Two states that differ in flags, trace and other operands. -/
theorem witness_OperationReadsOnlyItsOperands :
    let s := idle [0x00#8] []
    let s' := { idle [0x00#8] [] with reject := true, tr := [.rst] }
    s.eng = .idle ∧ s'.eng = .idle ∧ s.cfg = s'.cfg ∧ s.seqmem = s'.seqmem ∧ s.cmd = s'.cmd ∧ s.seqStart = s'.seqStart ∧
    s.argbuf.toList.take (s.cmd.extractLsb' 8 7).toNat = s'.argbuf.toList.take (s.cmd.extractLsb' 8 7).toNat ∧
    s.madctl = s'.madctl ∧ s.frmctr = s'.frmctr ∧ s.winX = s'.winX ∧ s.winY = s'.winY ∧ s.winW = s'.winW ∧
    s.winH = s'.winH := by decide

theorem witness_FrameCopiesToStageAndTransmits :
    (List.replicate 127 0#8).length ≤ 127 ∧ ([] : List Byte).length ≤ 127 := by simp

theorem witness_EngineStepPerformsHead :
    (∀ a ∈ [Action.ev (.cs .low), .ev (.dc .high), .ev (.tx 5#8), .ev (.wait 5#8), .hold 0#8, .hold 255#8, .setcur 65536#17,
        .fault 1#4 0#17, .done],
      (busy [0x00#8] [a] [.engine]).eng = .busy ∧ (busy [0x00#8] [a] [.engine]).turns = .engine :: [] ∧
      (busy [0x00#8] [a] [.engine]).pend = a :: []) ∧
    (halted [.engine]).eng ≠ .busy ∧ (halted [.engine]).turns = .engine :: [] := by decide

theorem witness_FaultEntry :
    let s := busy [0x29#8, 0x00#8] [.fault 1#4 2#17] [.engine]
    s.Inv ∧ s.eng = .busy ∧ s.pend = .fault 1#4 2#17 :: [] ∧ s.turns = .engine :: [] :=
  ⟨inv_busy _ _ _ (by decide) (by decide), rfl, rfl, rfl⟩

/-- A halted engine that a start leaves halted, and one that SRST resets. -/
theorem witness_FaultIsLeftOnlyByReset :
    (halted [wr 0#10 1#32]).eng = .fault ∧ (∃ t, step (halted [wr 0#10 1#32]) = .next t) ∧
    (∃ t, step (halted [wr 0#10 0x80000000#32]) = .next t) ∧ (∃ t, step (halted [.rstN]) = .next t) :=
  ⟨rfl, ⟨_, rfl⟩, ⟨_, rfl⟩, ⟨_, rfl⟩⟩

theorem witness_OperationEndsOnlyByDoneFaultOrHardwareReset :
    (∃ t, step (busy [0x00#8] [.done] []) = .next t ∧ t.eng ≠ .busy) ∧
    (∃ t, step (busy [0x00#8] [.fault 1#4 1#17] []) = .next t ∧ t.eng ≠ .busy) ∧
    (∃ t, step (busy [0x00#8] [.done] [.rstN]) = .next t ∧ t.eng ≠ .busy) :=
  ⟨⟨_, rfl, by decide⟩, ⟨_, rfl, by decide⟩, ⟨_, rfl, by decide⟩⟩

theorem witness_TickCountsDownHoldOnly :
    (busy [0x00#8] [.hold 1#8, .done] [.tick]).turns = .tick :: [] ∧
    (busy [0x00#8] [.hold 1#8, .done] [.tick]).pend = .hold 1#8 :: [.done] ∧ (1#8 : Byte) ≠ 0#8 ∧
    (∀ n rest, (busy [0x00#8] [.hold 0#8, .done] [.tick]).pend = .hold n :: rest → n = 0#8) ∧
    (∀ n rest, (idle [0x00#8] [.tick]).pend = .hold n :: rest → n = 0#8) := by
  refine ⟨rfl, rfl, by decide, ?_, ?_⟩ <;> intro n rest h <;> cases h
  rfl

/-- Each register, and the first and the last of ARGBUF. -/
theorem witness_OperandWriteReadsBackMasked :
    (idle [0x00#8] [wr 0x014#10 0xFFFFFFFF#32]).turns = .write 0x014#10 4 0xFFFFFFFF#32 :: [] ∧
    (0x014#10, 0x7FFF#32) ∈ [((0x008#10 : BitVec 10), (0xFFFF#32 : Word)), (0x014#10, 0x7FFF#32)] ∧
    (∃ k < 128, (0x200#10 : BitVec 10) = BitVec.ofNat 10 (0x200 + 4 * k)) ∧
    (∃ k < 128, (0x3FC#10 : BitVec 10) = BitVec.ofNat 10 (0x200 + 4 * k)) :=
  ⟨rfl, by decide, ⟨0, by decide⟩, ⟨127, by decide⟩⟩

theorem witness_ReadOnlyAndReservedOffsetsIgnoreWrites :
    (idle [0x00#8] [wr 0x030#10 5#32]).turns = .write 0x030#10 4 5#32 :: [] ∧
    ∀ off ∈ [0x004#10, 0x00C#10, 0x010#10, 0x030#10, 0x1FC#10], off.extractLsb' 0 2 = 0#2 ∧
      (off = 0x004#10 ∨ off = 0x00C#10 ∨ off = 0x010#10 ∨ (0x030 ≤ off.toNat ∧ off.toNat < 0x200)) := by decide

theorem witness_HostReadHasNoSideEffect :
    (busy [0x00#8] [.done] [.read 0x004#10 4]).turns = .read 0x004#10 4 :: [] ∧
    (0x004#10 : BitVec 10).extractLsb' 0 2 = 0#2 ∧ (0x3FC#10 : BitVec 10).extractLsb' 0 2 = 0#2 := by decide

theorem witness_StatusFields :
    (idle [0x29#8, 0x00#8] []).Inv ∧ (busy [0x00#8] [.done] []).Inv ∧ (halted []).Inv :=
  ⟨inv_idle _, inv_busy _ _ _ (by decide) (by decide), inv_halted _⟩

/-- A 16-bit access, and a 32-bit one at offset 2. -/
theorem witness_MisformedHostAccessIsRefused :
    2 ≠ 4 ∧ (idle [0x00#8] [.read 0x004#10 2]).turns = .read 0x004#10 2 :: [] ∧
    (0x002#10 : BitVec 10).extractLsb' 0 2 ≠ 0#2 ∧ (idle [0x00#8] [wr 0x002#10 1#32]).turns = .write 0x002#10 4 1#32 :: [] := by
  decide

theorem witness_WindowOffsetsAreBaseRelative :
    windowOffset { testCfg 1 .columnMajor with basePage := 3 } 3072 = some 0#10 ∧
    windowOffset { testCfg 1 .columnMajor with basePage := 3 } 4095 = some 1023#10 ∧
    windowOffset { testCfg 1 .columnMajor with basePage := 3 } 4096 = none := by decide

/-- States of every ENG with the invariant, from which there is a step: for StepKeepsInvariant,
PendingListEndsInDoneOrFault, SeqmemAndParametersNeverChange and FetchingOneAtATimeRefinesWholeExpansion. -/
theorem witness_StepKeepsInvariant :
    ((idle [0x29#8, 0x00#8] [wr 0#10 2#32]).Inv ∧ ∃ t, step (idle [0x29#8, 0x00#8] [wr 0#10 2#32]) = .next t) ∧
    ((busy [0x29#8, 0x00#8, 0x00#8] [.seq 0#17] []).Inv ∧
      ∃ t, step (busy [0x29#8, 0x00#8, 0x00#8] [.seq 0#17] []) = .next t) ∧
    ((inFrame [.ev (.tx 0x29#8), .ev (.dc .high), .ev (.cs .high), .done] []).Inv ∧
      ∃ t, step (inFrame [.ev (.tx 0x29#8), .ev (.dc .high), .ev (.cs .high), .done] []) = .next t) ∧
    ((halted [.read 0x010#10 4]).Inv ∧ ∃ t, step (halted [.read 0x010#10 4]) = .next t) :=
  ⟨⟨inv_idle _, _, rfl⟩, ⟨inv_busy _ _ _ (by decide) (by decide), _, rfl⟩, ⟨inv_inFrame _ _ (by decide), _, rfl⟩,
    ⟨inv_halted _, _, rfl⟩⟩

/-- A byte goes out inside a frame, and a wait begins outside one. -/
theorem witness_BytesInsideWaitsOutsideChipSelect :
    (∃ t, (inFrame [.ev (.tx 7#8), .ev (.dc .high), .ev (.cs .high), .done] []).Inv ∧
      step (inFrame [.ev (.tx 7#8), .ev (.dc .high), .ev (.cs .high), .done] []) = .next t ∧
      t.tr = [.cs .low, .dc .low] ++ [.tx 7#8]) ∧
    (∃ t, (busy [0x00#8] [.ev (.wait 9#8), .hold 9#8, .done] []).Inv ∧
      step (busy [0x00#8] [.ev (.wait 9#8), .hold 9#8, .done] []) = .next t ∧ t.tr = [] ++ [.wait 9#8]) :=
  ⟨⟨_, inv_inFrame _ _ (by decide), rfl, rfl⟩, ⟨_, inv_busy _ _ _ (by decide) (by decide), rfl, rfl⟩⟩

/-- The refusal that OnlyMisformedAccessStopsTheMachine allows, and a step that goes on. -/
theorem witness_OnlyMisformedAccessStopsTheMachine :
    (halted [.read 0x004#10 1]).Inv ∧ step (halted [.read 0x004#10 1]) = .refused .hostAccessForm ∧
    ∃ t, step (halted [.read 0x004#10 4]) = .next t :=
  ⟨inv_halted _, rfl, _, rfl⟩

/-- FAULT_PTR and SEQ_CUR written by a fault, and cleared by reset. -/
theorem witness_FaultPtrWrittenOnlyByFaultOrReset :
    (∃ t, step (busy [0x00#8] [.fault 1#4 65536#17] []) = .next t ∧ t.faultPtr ≠ 0#17 ∧ t.seqCur ≠ 0#17) ∧
    (∃ t, step (halted [.rstN]) = .next t ∧ t.faultPtr ≠ (halted [.rstN]).faultPtr) :=
  ⟨⟨_, rfl, by decide⟩, ⟨_, rfl, by decide⟩⟩

/-- SEQ_CUR written by reaching a descriptor. -/
theorem witness_SeqCurWrittenOnlyByInterpreterOrReset :
    ∃ t, step (busy [0x29#8, 0x00#8, 0x00#8] [.seq 2#17] []) = .next t ∧ t.seqCur ≠ 0#17 := ⟨_, rfl, by decide⟩

/-- Each flag cleared by ERRCLR, and by reset. -/
theorem witness_ErrorFlagsAreSticky :
    let s := { idle [0x00#8] [wr 0#10 0x40000000#32] with reject := true, badop := true }
    let s' := { idle [0x00#8] [.rstN] with reject := true }
    (∃ t, step s = .next t ∧ s.reject = true ∧ t.reject = false ∧ s.badop = true ∧ t.badop = false) ∧
    (∃ t, step s' = .next t ∧ s'.reject = true ∧ t.reject = false) :=
  ⟨⟨_, rfl, rfl, rfl, rfl, rfl⟩, ⟨_, rfl, rfl, rfl⟩⟩

theorem witness_QuiescentBlockEmitsNothing :
    (idle [0x00#8] [wr 0#10 1#32]).quiescent = true ∧ (∃ t, step (idle [0x00#8] [wr 0#10 1#32]) = .next t) ∧
    (halted [.rstN]).quiescent = true ∧ (∃ t, step (halted [.rstN]) = .next t) :=
  ⟨by decide, ⟨_, rfl⟩, by decide, ⟨_, rfl⟩⟩

/-- Two different values of STAGE. -/
theorem witness_StageIsNeverObservable :
    let s := { idle [0x00#8] [wr 0#10 1#32] with stage := Vector.replicate 128 1#8 }
    let s' := { idle [0x00#8] [wr 0#10 1#32] with stage := Vector.replicate 128 2#8 }
    s.withoutStage = s'.withoutStage := rfl

theorem witness_OperationInFlightIsUndisturbed :
    let s := inFrame [.ev (.tx 7#8), .ev (.dc .high), .ev (.cs .high), .done] [wr 0x014#10 1#32]
    s.Inv ∧ s.eng = .busy ∧ s.nextTurn ≠ .rstN ∧ ∃ t, step s = .next t :=
  ⟨inv_inFrame _ _ (by decide), rfl, by decide, _, rfl⟩

/-- V15: a wait of 255 ticks. -/
theorem witness_OperationRunsToItsEnd :
    (busy [0x11#8, 0x80#8, 0xFF#8, 0x00#8] [.seq 0#17] []).Inv ∧
    (busy [0x11#8, 0x80#8, 0xFF#8, 0x00#8] [.seq 0#17] []).eng = .busy ∧
    (busy [0x11#8, 0x80#8, 0xFF#8, 0x00#8] [.seq 0#17] []).turns = [] :=
  ⟨inv_busy _ _ _ (by decide) (by decide), rfl, rfl⟩

/-- The RUN_SEQ of one descriptor and a sentinel in the last byte. -/
theorem witness_RunSeqWholeRun :
    let s := idle [0x29#8, 0x00#8, 0x00#8] [wr 0#10 2#32]
    let ds := [Instr.cmd 0x29#8 []]
    s.Inv ∧ s.eng = .idle ∧ s.turns = [.write 0x000#10 4 2#32] ∧ decodeCtrl 2#32 = .runSeq false 0#26 ∧
    (∀ d ∈ ds, isCommand d = true ∧ d.wellFormed = true) ∧
    s.seqStart.toNat + (sequenceBytes ds).length + 1 ≤ s.cfg.seqBytes ∧
    s.seqmem.readBytes s.seqStart.toNat ((sequenceBytes ds).length + 1) = sequenceBytes ds ++ [0x00#8] :=
  ⟨⟨by decide, rfl, rfl, fun h => absurd h (by decide), fun _ => ⟨rfl, rfl, rfl⟩, rfl, by decide⟩, rfl, rfl, by decide,
    by decide, by decide, by decide⟩

/-- V20 (the sentinel is missing), and V24 (no descriptor at all). -/
theorem witness_RunSeqOverrunIsPrecise :
    let s := idle [0x29#8, 0x00#8] [wr 0#10 2#32]
    let s' := { idle [0x29#8, 0x00#8] [wr 0#10 2#32] with seqStart := 2#16 }
    let ds := [Instr.cmd 0x29#8 []]
    (s.Inv ∧ s.eng = .idle ∧ s.turns = [.write 0x000#10 4 2#32] ∧ decodeCtrl 2#32 = .runSeq false 0#26 ∧
      (∀ d ∈ ds, isCommand d = true ∧ d.wellFormed = true) ∧
      s.seqStart.toNat + (sequenceBytes ds).length ≤ s.cfg.seqBytes ∧
      s.seqmem.readBytes s.seqStart.toNat (sequenceBytes ds).length = sequenceBytes ds ∧
      decodeDescriptor (bytesFrom s.cfg s.seqmem (s.seqStart.toNat + (sequenceBytes ds).length)) =
        .rejected .opcodeOutside) ∧
    (s'.Inv ∧ s'.eng = .idle ∧ s'.seqmem.readBytes s'.seqStart.toNat (sequenceBytes []).length = sequenceBytes [] ∧
      decodeDescriptor (bytesFrom s'.cfg s'.seqmem (s'.seqStart.toNat + (sequenceBytes []).length)) =
        .rejected .opcodeOutside) :=
  ⟨⟨inv_idle _, rfl, rfl, by decide, by decide, by decide, by decide, by decide⟩,
    ⟨⟨by decide, rfl, rfl, fun h => absurd h (by decide), fun _ => ⟨rfl, rfl, rfl⟩, rfl, by decide⟩, rfl, by decide,
      by decide⟩⟩

/-- The starts of the other whole runs: SEND_CMD, CONFIGURE, SET_WINDOW and FILL. -/
theorem witness_whole_runs :
    (∀ v, (idle [0x29#8, 0x00#8] [wr 0#10 v]).Inv ∧ (idle [0x29#8, 0x00#8] [wr 0#10 v]).eng = .idle ∧
      (idle [0x29#8, 0x00#8] [wr 0#10 v]).turns = [.write 0x000#10 4 v]) ∧
    decodeCtrl 1#32 = .sendCmd false 0#26 ∧ decodeCtrl 3#32 = .configure false 0#26 ∧
    decodeCtrl 0x40000004#32 = .setWindow true 0#26 ∧ decodeCtrl 5#32 = .fill false 0#26 :=
  ⟨fun _ => ⟨inv_idle _, rfl, rfl⟩, by decide⟩

end Sys2Proof.Tests
end

/-! PROOFS of the state family (spec/10_state.md). First the layer they share: CTRL writes as one equation, what leaves the
engine's part of the state alone, what a step can do to that part. Then the invariant, operation by operation. -/

namespace Sys2Proof.Machine

/-! ### CTRL writes as one equation -/

/-- A CTRL write in R22's order: SRST before all else, then ERRCLR, then OP. -/
theorem exec_decodeCtrl (w : Word) (s : State) :
    exec (decodeCtrl w) s = .next
      (if w.getLsbD 31 then (if s.eng = .busy then setReject s else resetAction s)
       else performOp (w.extractLsb' 0 4) (applyErrclr (w.getLsbD 30) s)) := by
  unfold decodeCtrl performOp
  cases w.getLsbD 31
  · simp only [Bool.false_eq_true, if_false]
    generalize (w.extractLsb' 0 4).toNat = op
    rcases op with _ | _ | _ | _ | _ | _ | _ | _ | op
    · cases w.getLsbD 30 <;> rfl
    all_goals rfl
  · rfl

/-- OP 6 to 15 is reserved (R80, R187). -/
theorem performOp_reserved {op : BitVec 4} (h : 6 ≤ op.toNat) : performOp op = setBadop := by
  obtain ⟨k, hk⟩ := Nat.exists_eq_add_of_le' h
  funext s
  simp only [performOp, hk]

/-- OP 1 to 5 is a start (R80, R110). -/
theorem performOp_start {op : BitVec 4} (h₁ : 1 ≤ op.toNat) (h₅ : op.toNat ≤ 5) :
    ∃ f ∈ acceptances, performOp op = startWhenIdle f := by
  have h : op.toNat = 1 ∨ op.toNat = 2 ∨ op.toNat = 3 ∨ op.toNat = 4 ∨ op.toNat = 5 := by omega
  rcases h with h | h | h | h | h
  · exact ⟨acceptSendCmd, by simp [acceptances], funext fun s => by simp only [performOp, h]⟩
  · exact ⟨acceptRunSeq, by simp [acceptances], funext fun s => by simp only [performOp, h]⟩
  · exact ⟨acceptConfigure, by simp [acceptances], funext fun s => by simp only [performOp, h]⟩
  · exact ⟨acceptSetWindow, by simp [acceptances], funext fun s => by simp only [performOp, h]⟩
  · exact ⟨acceptFill, by simp [acceptances], funext fun s => by simp only [performOp, h]⟩

/-- OP 0 does nothing (R80, R113). -/
theorem performOp_nop {op : BitVec 4} (h : op.toNat = 0) : performOp op = id := by
  funext s
  simp only [performOp, h, id]

/-- Each OP is nothing, a reserved value or one of the five starts, whatever the state (R80). -/
theorem performOp_kind (op : BitVec 4) :
    performOp op = id ∨ performOp op = setBadop ∨ ∃ f ∈ acceptances, performOp op = startWhenIdle f := by
  by_cases h₀ : op.toNat = 0
  · exact .inl (performOp_nop h₀)
  by_cases h₆ : 6 ≤ op.toNat
  · exact .inr (.inl (performOp_reserved h₆))
  · exact .inr (.inr (performOp_start (by omega) (by omega)))

/-! ### The engine's part of the state

What a host access or a flag can touch is put to a fixed value, and the rest stays: SEQMEM, the parameters, ENG, PEND, the
pointers, CAUSE, the lines and the trace. Operations that keep this view keep every fact about the engine. -/

/-- The state with everything but the engine's part put to a fixed value. -/
def State.engineView (s : State) : State :=
  { s with
    reject := false, badop := false, seqStart := 0#16, cmd := 0#15, madctl := 0#8, frmctr := 0#24, winX := 0#16,
    winY := 0#16, winW := 0#16, winH := 0#16, argbuf := Vector.replicate 128 0#8, stage := Vector.replicate 128 0#8,
    turns := [], rdata := 0#32, draws := 0 }

@[simp] theorem engineView_faultPtr (s : State) : s.engineView.faultPtr = s.faultPtr := rfl
@[simp] theorem engineView_seqCur (s : State) : s.engineView.seqCur = s.seqCur := rfl
@[simp] theorem afterTurn_engineView (s : State) : s.afterTurn.engineView = s.engineView := rfl
@[simp] theorem setReject_engineView (s : State) : (setReject s).engineView = s.engineView := rfl
@[simp] theorem setBadop_engineView (s : State) : (setBadop s).engineView = s.engineView := rfl
@[simp] theorem hostRead_engineView (off : BitVec 10) (s : State) :
    (hostRead off s).engineView = s.engineView := rfl
@[simp] theorem applyErrclr_engineView (e : Bool) (s : State) :
    (applyErrclr e s).engineView = s.engineView := by
  cases e <;> rfl

@[simp] theorem writeReg_engineView (off : BitVec 10) (v : Word) (s : State) :
    (writeReg off v s).engineView = s.engineView := by
  rcases writeReg_cases off v s with h | ⟨r, h⟩ | ⟨r, h⟩ | ⟨r, h⟩ | ⟨r, h⟩ | ⟨r, h⟩ | ⟨r, h⟩ | ⟨r, h⟩ | ⟨r, h⟩ | ⟨r, h⟩ <;>
    rw [h] <;> rfl

/-- The ways a step can change the engine's part of the state: not at all; an accepted start; a reset; a tick; the engine
at an action; the engine at a descriptor. -/
theorem step_effect {s t : State} (h : step s = .next t) :
    t.engineView = s.engineView ∨
    (s.eng = .idle ∧ ∃ f ∈ acceptances, ∃ e, t = f (applyErrclr e s.afterTurn)) ∨
    ((s.nextTurn = .rstN ∨ s.eng ≠ .busy) ∧ t = resetAction s.afterTurn) ∨
    t = tickAction s.afterTurn ∨
    (s.nextTurn = .engine ∧ s.eng = .busy ∧ ∃ a rest, s.pend = a :: rest ∧ (∀ p, a ≠ .seq p) ∧
      t = perform a rest s.afterTurn) ∨
    (s.nextTurn = .engine ∧ s.eng = .busy ∧ ∃ p rest, s.pend = .seq p :: rest ∧
      runSeqHead p rest s.afterTurn = .next t) := by
  rcases step_cases h with ⟨w, -, hw⟩ | ⟨off, bytes, v, -, -, rfl⟩ | ⟨off, bytes, -, rfl⟩ | ⟨-, rfl⟩ | ⟨hn, rfl⟩ |
    ⟨-, -, rfl⟩ | hact | hseq
  · obtain ⟨t', ht', hc⟩ := exec_ctrl_cases w s.afterTurn
    obtain rfl := Host.Outcome.next.inj (hw.symm.trans ht')
    rcases hc with ⟨-, -, rfl⟩ | ⟨-, hb, rfl⟩ | ⟨-, rfl | rfl | ⟨-, rfl⟩ | ⟨hi, f, hf, rfl⟩⟩
    · exact .inl rfl
    · exact .inr (.inr (.inl ⟨.inr hb, rfl⟩))
    · exact .inl (by simp)
    · exact .inl (by simp)
    · exact .inl (by simp)
    · exact .inr (.inl ⟨hi, f, hf, _, rfl⟩)
  · exact .inl (by simp)
  · exact .inl (by simp)
  · exact .inr (.inr (.inr (.inl rfl)))
  · exact .inr (.inr (.inl ⟨.inl hn, rfl⟩))
  · exact .inl rfl
  · exact .inr (.inr (.inr (.inr (.inl hact))))
  · exact .inr (.inr (.inr (.inr (.inr hseq))))

/-! ### The invariant -/

theorem csAfter_append (tr : List Event) (e : Event) :
    csAfter (tr ++ [e]) = match e with | .cs v => v | .rst => .high | _ => csAfter tr := by
  cases e <;> simp [csAfter]

theorem dcAfter_append (tr : List Event) (e : Event) :
    dcAfter (tr ++ [e]) = match e with | .dc v => v | .rst => .high | _ => dcAfter tr := by
  cases e <;> simp [dcAfter]

theorem inv_engineView {s : State} : s.engineView.Inv ↔ s.Inv :=
  ⟨fun h => ⟨h.memory, h.csN, h.dc, h.busy, h.quiet, h.cause, h.pointers⟩,
    fun h => ⟨h.memory, h.csN, h.dc, h.busy, h.quiet, h.cause, h.pointers⟩⟩

/-- The invariant speaks of the engine's part of the state alone. -/
theorem inv_of_engineView_eq {s t : State} (ht : t.engineView = s.engineView) (h : s.Inv) : t.Inv :=
  inv_engineView.mp (ht ▸ inv_engineView.mpr h)

/-- While CS_N is low, data bytes go out freely (R103). -/
theorem closes_txs (dc : Level) (bs : List Byte) (rest : List Action) :
    closes .low dc ((bs.map fun b => .ev (.tx b)) ++ rest) = closes .low dc rest := by
  induction bs with
  | nil => rfl
  | cons b bs ih => simpa [closes] using ih

/-- A frame begins and ends with both lines high (R100, R102). -/
theorem closes_frameActions (opc : Byte) (args : List Byte) (rest : List Action) :
    closes .high .high (frameActions (opc :: args) ++ rest) = closes .high .high rest := by
  simp [frameActions, closes, closes_txs]

theorem closes_frameActions_of_ne_nil {bs : List Byte} (h : bs ≠ []) (rest : List Action) :
    closes .high .high (frameActions bs ++ rest) = closes .high .high rest := by
  obtain ⟨opc, args, rfl⟩ := List.exists_cons_of_ne_nil h
  exact closes_frameActions opc args rest

/-- Every accepted start makes ENG BUSY with a PEND that closes (R43, R110). -/
theorem acceptance_closes {f : State → State} (hf : f ∈ acceptances) (s : State) :
    (f s).eng = .busy ∧ closes .high .high (f s).pend = true := by
  simp only [acceptances, List.mem_cons, List.not_mem_nil, or_false] at hf
  rcases hf with rfl | rfl | rfl | rfl | rfl
  · refine ⟨rfl, ?_⟩
    rw [acceptSendCmd_pend, closes_frameActions_of_ne_nil (by simp [sendCmdBytes])]
    rfl
  · have := s.seqStart.isLt
    refine ⟨rfl, ?_⟩
    simp [closes, seqEntry]
    omega
  · refine ⟨rfl, ?_⟩
    rw [acceptConfigure_pend, List.append_assoc, closes_frameActions_of_ne_nil (by simp [madctlBytes]),
      closes_frameActions_of_ne_nil (frmctrBytes_ne_nil s)]
    rfl
  · refine ⟨rfl, ?_⟩
    rw [acceptSetWindow_pend, List.append_assoc, closes_frameActions_of_ne_nil (by simp [rowsetBytes]),
      closes_frameActions_of_ne_nil (by simp [colsetBytes])]
    rfl
  · refine ⟨rfl, ?_⟩
    rw [acceptFill_pend]
    simp [closes, closes_txs]

/-- An accepted start changes ENG, PEND, STAGE and SP alone, and SP is then SEQ_START (R25, R110). -/
theorem acceptance_frame {f : State → State} (hf : f ∈ acceptances) (s : State) :
    f s = { s with eng := .busy, pend := (f s).pend, stage := (f s).stage, sp := (f s).sp } ∧
    ((f s).sp = s.sp ∨ (f s).sp = seqEntry s) := by
  simp only [acceptances, List.mem_cons, List.not_mem_nil, or_false] at hf
  rcases hf with rfl | rfl | rfl | rfl | rfl
  · exact ⟨rfl, .inl rfl⟩
  · exact ⟨rfl, .inr rfl⟩
  · exact ⟨rfl, .inl rfl⟩
  · exact ⟨rfl, .inl rfl⟩
  · exact ⟨rfl, .inl rfl⟩

theorem acceptance_inv {f : State → State} (hf : f ∈ acceptances) {s : State} (hi : s.eng = .idle) (h : s.Inv) :
    (f s).Inv := by
  obtain ⟨hframe, hsp⟩ := acceptance_frame hf s
  obtain ⟨hbusy, hcloses⟩ := acceptance_closes hf s
  obtain ⟨-, hcs, hdc⟩ := h.quiet (by simp [hi])
  obtain ⟨hsp₀, hcur, hptr⟩ := h.pointers
  have hentry : (seqEntry s).toNat ≤ 65536 := by
    have := s.seqStart.isLt
    simp [seqEntry]
    omega
  have hcause : s.cause = 0#4 := by simpa [hi] using h.cause
  rw [hframe]
  exact
    { memory := h.memory
      csN := h.csN
      dc := h.dc
      busy := fun _ => by simpa [hcs, hdc] using hcloses
      quiet := fun hb => absurd rfl hb
      cause := by simpa using hcause
      pointers := ⟨by rcases hsp with hsp | hsp <;> simpa [hsp], hcur, hptr⟩ }

theorem resetAction_inv {s : State} (h : s.Inv) : (resetAction s).Inv where
  memory := h.memory
  csN := by simp [csAfter_append]
  dc := by simp [dcAfter_append]
  busy hb := by simp at hb
  quiet _ := ⟨rfl, rfl, rfl⟩
  cause := by simp
  pointers := by simp

/-- A tick leaves the state alone, unless a hold that is not over is at the head of PEND (R42). -/
theorem tickAction_cases (s : State) :
    ((∀ n rest, s.pend = .hold n :: rest → n = 0#8) ∧ tickAction s = s) ∨
    ∃ n rest, s.pend = .hold n :: rest ∧ n ≠ 0#8 ∧ tickAction s = { s with pend := .hold (n - 1#8) :: rest } := by
  unfold tickAction
  split
  case h_1 n rest hp =>
    by_cases hn : n = 0#8
    · exact .inl ⟨by simp [hp, hn], if_pos hn⟩
    · exact .inr ⟨n, rest, hp, hn, if_neg hn⟩
  case h_2 hp => exact .inl ⟨fun n rest h => absurd h (hp n rest), rfl⟩

/-- The invariant with another PEND that closes as the old one did. -/
theorem inv_with_pend {s : State} (h : s.Inv) (hb : s.eng = .busy) {as : List Action}
    (hc : closes s.csN s.dc as = true) : { s with pend := as }.Inv :=
  { h with busy := fun _ => hc, quiet := fun hn => absurd hb hn }

/-- A PEND that is not empty is that of a BUSY engine (R43). -/
theorem eng_busy_of_pend {s : State} (h : s.Inv) {a : Action} {rest : List Action} (hp : s.pend = a :: rest) :
    s.eng = .busy := by
  by_contra hq
  obtain ⟨hnil, -⟩ := h.quiet hq
  simp [hp] at hnil

theorem tickAction_inv {s : State} (h : s.Inv) : (tickAction s).Inv := by
  rcases tickAction_cases s with ⟨-, ht⟩ | ⟨n, rest, hp, -, ht⟩
  · rwa [ht]
  · have hb := eng_busy_of_pend h hp
    rw [ht]
    refine inv_with_pend h hb ?_
    simpa [hp, closes] using h.busy hb

/-- Performing an event that PEND may begin with (R45, R111). -/
theorem emit_inv {s : State} (h : s.Inv) (hb : s.eng = .busy) {e : Event} {rest : List Action}
    (hp : s.pend = .ev e :: rest) : (emit e { s with pend := rest }).Inv where
  memory := by simpa using h.memory
  csN := by cases e <;> simp [csAfter_append, h.csN]
  dc := by cases e <;> simp [dcAfter_append, h.dc]
  busy _ := by
    have hc := h.busy hb
    rw [hp] at hc
    cases e with
    | cs v => exact hc
    | dc v => exact hc
    | tx b => exact (Bool.and_eq_true_iff.mp hc).2
    | wait n => exact (Bool.and_eq_true_iff.mp hc).2
    | rst => exact nomatch hc
  quiet hq := absurd hb (by simpa using hq)
  cause := by simpa using h.cause
  pointers := by simpa using h.pointers

theorem perform_hold (n : Byte) (rest : List Action) (s : State) :
    perform (.hold n) rest s = if n = 0#8 then { s with pend := rest } else s := rfl

/-- Performing the head action of PEND keeps the invariant (R111, R183). -/
theorem perform_inv {s : State} (h : s.Inv) (hb : s.eng = .busy) {a : Action} {rest : List Action}
    (hp : s.pend = a :: rest) (ha : ∀ p, a ≠ .seq p) : (perform a rest s).Inv := by
  have hc := h.busy hb
  have hcause : s.cause = 0#4 := by simpa [hb] using h.cause
  obtain ⟨hsp, hcur, hptr⟩ := h.pointers
  rw [hp] at hc
  cases a with
  | ev e => exact emit_inv h hb hp
  | hold n =>
    rw [perform_hold]
    split
    · exact inv_with_pend h hb (Bool.and_eq_true_iff.mp hc).2
    · exact h
  | setcur p =>
    simp only [closes, Bool.and_eq_true, decide_eq_true_eq] at hc
    obtain ⟨hle, hrest⟩ := hc
    exact { inv_with_pend h hb hrest with pointers := ⟨hle, hle, hptr⟩ }
  | fault c p =>
    simp only [closes, Bool.and_eq_true, decide_eq_true_eq, beq_iff_eq] at hc
    obtain ⟨⟨⟨⟨rfl, hle⟩, hcs⟩, hdc⟩, -⟩ := hc
    exact
      { memory := h.memory
        csN := h.csN
        dc := h.dc
        busy := fun hf => nomatch hf
        quiet := fun _ => ⟨rfl, hcs, hdc⟩
        cause := rfl
        pointers := ⟨hle, hle, hle⟩ }
  | done =>
    simp only [closes, Bool.and_eq_true, beq_iff_eq] at hc
    obtain ⟨⟨hcs, hdc⟩, -⟩ := hc
    exact
      { memory := h.memory
        csN := h.csN
        dc := h.dc
        busy := fun hi => nomatch hi
        quiet := fun _ => ⟨rfl, hcs, hdc⟩
        cause := hcause
        pointers := ⟨hsp, hcur, hptr⟩ }
  | seq p => exact absurd rfl (ha p)

/-- Reaching a descriptor keeps the invariant: what comes to the front of PEND closes as the rest of the sequence did
(R102, R121 to R124, R182). -/
theorem runSeqHead_inv {s t : State} (h : s.Inv) (hb : s.eng = .busy) {p : SeqPtr} {rest : List Action}
    (hp : s.pend = .seq p :: rest) (ht : runSeqHead p rest s = .next t) : t.Inv := by
  have hc := h.busy hb
  obtain ⟨-, -, hptr⟩ := h.pointers
  rw [hp] at hc
  simp only [closes, Bool.and_eq_true, decide_eq_true_eq, beq_iff_eq, List.isEmpty_iff] at hc
  obtain ⟨⟨⟨hle, hcs⟩, hdc⟩, rfl⟩ := hc
  have key : ∀ (st : Buffer) (as : List Action), closes .high .high as = true →
      { s with sp := p, seqCur := p, stage := st, pend := as }.Inv := fun st as has =>
    { inv_with_pend h hb (as := as) (by simpa [hcs, hdc] using has) with pointers := ⟨hle, hle, hptr⟩ }
  have hmax := seqBytes_le s.cfg
  rcases runSeqHead_result p [] s with ⟨-, hr⟩ | ⟨opc, args, q, r, -, -, -, hq, hr⟩ |
    ⟨opc, args, ms, q, r, -, -, -, hq, hr⟩ | ⟨e, -, hr⟩ <;> obtain rfl := Host.Outcome.next.inj (ht.symm.trans hr)
  · exact key s.stage _ rfl
  · refine key _ _ ?_
    rw [closes_frameActions]
    simp [closes]
    omega
  · refine key _ _ ?_
    rw [List.append_assoc, closes_frameActions]
    simp [closes]
    omega
  · refine key s.stage _ ?_
    simpa [closes] using hle

/-- Settles O41: `step_effect` gives the six ways a step changes the engine's part of the state, and each keeps the
invariant. -/
theorem stepKeepsInvariant : Obligations.StepKeepsInvariant := by
  intro s t h hst
  have hturn : s.afterTurn.Inv := inv_of_engineView_eq (afterTurn_engineView s) h
  rcases step_effect hst with hv | ⟨hi, f, hf, e, rfl⟩ | ⟨-, rfl⟩ | rfl | ⟨-, hb, a, rest, hp, ha, rfl⟩ |
    ⟨-, hb, p, rest, hp, hr⟩
  · exact inv_of_engineView_eq hv h
  · exact acceptance_inv hf (by simpa using hi) (inv_of_engineView_eq (applyErrclr_engineView e s.afterTurn) hturn)
  · exact resetAction_inv hturn
  · exact tickAction_inv hturn
  · exact perform_inv hturn hb hp ha
  · exact runSeqHead_inv hturn hb hp hr

end Sys2Proof.Machine

/-! PROOFS of the state family: ExpandSeq one descriptor at a time, and PEND written out. -/

namespace Sys2Proof.Machine

/-! ### ExpandSeq, one descriptor at a time (R121) -/

/-- The actions of the descriptor at `p` that decodes as given, `next` being those of the descriptor at an offset. -/
def descriptorActions (p : Nat) (next : Nat → List Action) : Decoded → List Action
  | .accepted .endSeq _ => [.setcur (BitVec.ofNat 17 p), .done]
  | .accepted (.cmd opc args) _ =>
    .setcur (BitVec.ofNat 17 p) :: frameActions (opc :: args) ++ next (p + (2 + args.length))
  | .accepted (.cmdd opc args ms) _ =>
    .setcur (BitVec.ofNat 17 p) :: frameActions (opc :: args) ++ [.ev (.wait ms), .hold ms] ++
      next (p + (3 + args.length))
  | _ => overrunActions p

theorem bytesFrom_past {c : Params} {m : Memory} {p : Nat} (h : c.seqBytes ≤ p) : bytesFrom c m p = [] := by
  simp [bytesFrom, Nat.sub_eq_zero_of_le h, Memory.readBytes]

theorem bytesFrom_cons {c : Params} {m : Memory} {p : Nat} (h : p < c.seqBytes) :
    bytesFrom c m p = m.read p :: bytesFrom c m (p + 1) :=
  bytesFrom_split (n := 1) h

/-- A body that SEQMEM is too short for is rejected (R182 case (3)). -/
theorem decodeBody_short {opc lf : Byte} {tail : List Byte}
    (h : tail.length < lenFlagsCount lf + if lenFlagsDelay lf then 1 else 0) :
    decodeBody opc lf tail = .rejected .bodyOutside := by
  unfold decodeBody
  by_cases hn : tail.length < lenFlagsCount lf
  · simp [hn]
  · have hd : lenFlagsDelay lf = true := by
      by_contra hd
      simp [hd] at h
      omega
    have hnil : tail.drop (lenFlagsCount lf) = [] := by
      simp only [hd, if_true] at h
      exact List.drop_of_length_le (by omega)
    simp [hd, hnil]

/-- R121's ExpandSeq tests the bytes at `p` exactly as the decoder does (R87). -/
theorem expandSeqTo_succ (c : Params) (m : Memory) (k p : Nat) :
    expandSeqTo c m (k + 1) p =
      descriptorActions p (expandSeqTo c m k) (decodeDescriptor (bytesFrom c m p)) := by
  unfold expandSeqTo
  by_cases h0 : p ≥ c.seqBytes
  · rw [if_pos h0, bytesFrom_past h0]
    rfl
  rw [if_neg h0, bytesFrom_cons (not_le.mp h0)]
  by_cases hend : m.read p = 0#8
  · rw [if_pos hend, hend]
    rfl
  rw [if_neg hend]
  by_cases h1 : p + 1 ≥ c.seqBytes
  · rw [if_pos h1, bytesFrom_past h1]
    simp [decodeDescriptor, hend, descriptorActions]
  rw [if_neg h1, bytesFrom_cons (not_le.mp h1), decodeDescriptor_body _ _ _ hend]
  set lf := m.read (p + 1)
  have hlen : (bytesFrom c m (p + 1 + 1)).length = c.seqBytes - (p + 2) := bytesFrom_length c m (p + 2)
  have hargs : (m.readBytes (p + 2) (lenFlagsCount lf)).length = lenFlagsCount lf := Memory.readBytes_length _ _ _
  by_cases hd : lenFlagsDelay lf = true
  · simp only [hd, if_true]
    by_cases hfit : p + (3 + lenFlagsCount lf) > c.seqBytes
    · rw [if_pos hfit, decodeBody_short (by rw [hlen, hd, if_pos rfl]; omega)]
      rfl
    · rw [if_neg hfit, bytesFrom_split (n := lenFlagsCount lf) (by omega), bytesFrom_cons (by omega),
        decodeBody_cmdd _ _ _ _ _ hd hargs]
      simp only [descriptorActions, hargs]
  · simp only [Bool.not_eq_true] at hd
    simp only [hd, Bool.false_eq_true, if_false]
    by_cases hfit : p + (2 + lenFlagsCount lf) > c.seqBytes
    · rw [if_pos hfit, decodeBody_short (by rw [hlen, hd]; simp; omega)]
      rfl
    · rw [if_neg hfit, bytesFrom_split (n := lenFlagsCount lf) (by omega), decodeBody_cmd _ _ _ _ hd hargs]
      simp only [descriptorActions, hargs]

/-- Only the descriptors further on matter to the actions of one. -/
theorem descriptorActions_congr {p : Nat} {next next' : Nat → List Action} (h : ∀ q > p, next q = next' q)
    (d : Decoded) : descriptorActions p next d = descriptorActions p next' d := by
  unfold descriptorActions
  split
  · rfl
  · rw [h _ (by omega)]
  · rw [h _ (by omega)]
  · rfl

/-- With as many descriptors as there are bytes left, ExpandSeq has come to its end (R125). -/
theorem expandSeqTo_enough (c : Params) (m : Memory) (k k' p : Nat) (h : c.seqBytes ≤ p + k)
    (h' : c.seqBytes ≤ p + k') : expandSeqTo c m (k + 1) p = expandSeqTo c m (k' + 1) p := by
  induction k generalizing k' p with
  | zero => rw [expandSeqTo_succ, expandSeqTo_succ, bytesFrom_past (by omega)]; rfl
  | succ k ih =>
    cases k' with
    | zero => rw [expandSeqTo_succ, expandSeqTo_succ, bytesFrom_past (by omega)]; rfl
    | succ k' =>
      rw [expandSeqTo_succ, expandSeqTo_succ _ _ (k' + 1)]
      exact descriptorActions_congr (fun q hq => ih k' q (by omega) (by omega)) _

/-- ExpandSeq(p) is the descriptor at `p`, then ExpandSeq of the next (R121). -/
theorem expandSeq_eq (c : Params) (m : Memory) (p : Nat) :
    expandSeq c m p = descriptorActions p (expandSeq c m) (decodeDescriptor (bytesFrom c m p)) := by
  have hpos := seqBytes_pos c
  obtain ⟨k, hk⟩ : ∃ k, c.seqBytes = k + 1 := ⟨c.seqBytes - 1, by omega⟩
  unfold expandSeq
  rw [expandSeqTo_succ]
  refine descriptorActions_congr (fun q hq => ?_) _
  rw [hk]
  exact expandSeqTo_enough c m k (k + 1) q (by omega) (by omega)

/-- A property of lists of actions that the end of a sequence has, and that each descriptor put before a list keeps, holds
of every ExpandSeq: the interpreter comes to an end (R125). -/
theorem expandSeq_induction {P : List Action → Prop} (c : Params) (m : Memory)
    (hend : ∀ p, P [.setcur p, .done]) (hover : ∀ p, P (overrunActions p))
    (hcmd : ∀ p opc args as, P as → P (.setcur p :: frameActions (opc :: args) ++ as))
    (hcmdd : ∀ p opc args ms as, P as →
      P (.setcur p :: frameActions (opc :: args) ++ [.ev (.wait ms), .hold ms] ++ as)) (p : Nat) :
    P (expandSeq c m p) := by
  induction hn : c.seqBytes - p using Nat.strong_induction_on generalizing p with
  | _ n ih =>
    by_cases h0 : c.seqBytes ≤ p
    · rw [expandSeq_eq, bytesFrom_past h0]
      exact hover p
    rw [expandSeq_eq]
    unfold descriptorActions
    split
    · exact hend _
    · exact hcmd _ _ _ _ (ih _ (by omega) _ rfl)
    · exact hcmdd _ _ _ _ _ (ih _ (by omega) _ rfl)
    · exact hover p

/-! ### PEND written out (R43) -/

/-- The action is neither closing nor the rest of a sequence: a PEND goes on after it. -/
def Action.plain : Action → Bool
  | .ev _ => true
  | .hold _ => true
  | .setcur _ => true
  | .fault _ _ => false
  | .done => false
  | .seq _ => false

/-- The list ends in its only `done` or SEQ_OVERRUN fault, and no part of it is still to be written out (R43). -/
def endsOnce (as : List Action) : Prop :=
  ∃ init last, as = init ++ [last] ∧ (last = .done ∨ ∃ p, last = .fault seqOverrun p) ∧
    ∀ a ∈ init, a.plain = true

theorem endsOnce_done : endsOnce [.done] := ⟨[], _, rfl, .inl rfl, by simp⟩

theorem endsOnce_fault (p : SeqPtr) : endsOnce [.fault seqOverrun p] := ⟨[], _, rfl, .inr ⟨p, rfl⟩, by simp⟩

theorem endsOnce_append {l as : List Action} (hl : ∀ a ∈ l, a.plain = true) (h : endsOnce as) :
    endsOnce (l ++ as) := by
  obtain ⟨init, last, rfl, hlast, hinit⟩ := h
  exact ⟨l ++ init, last, by simp, hlast, by simpa [or_imp, forall_and] using ⟨hl, hinit⟩⟩

theorem endsOnce_cons {a : Action} {as : List Action} (ha : a.plain = true) (h : endsOnce as) :
    endsOnce (a :: as) :=
  endsOnce_append (l := [a]) (by simpa using ha) h

theorem frameActions_plain (bs : List Byte) : ∀ a ∈ frameActions bs, a.plain = true := by
  cases bs with
  | nil => simp [frameActions]
  | cons opc args =>
    simp only [frameActions, List.mem_append, List.mem_cons, List.mem_map, List.not_mem_nil, or_false]
    rintro a ((( rfl | rfl | rfl | rfl) | ⟨b, -, rfl⟩) | rfl) <;> rfl

theorem expandSeq_endsOnce (c : Params) (m : Memory) (p : Nat) : endsOnce (expandSeq c m p) := by
  refine expandSeq_induction c m (fun p => endsOnce_cons rfl endsOnce_done)
    (fun p => endsOnce_cons rfl (endsOnce_fault _)) (fun p opc args as has => ?_)
    (fun p opc args ms as has => ?_) p
  · exact endsOnce_cons rfl (endsOnce_append (frameActions_plain _) has)
  · rw [List.append_assoc]
    exact endsOnce_cons rfl (endsOnce_append (frameActions_plain _) (endsOnce_cons rfl (endsOnce_cons rfl has)))

theorem writtenOut_of_plain (c : Params) (m : Memory) {a : Action} (h : a.plain = true) :
    writtenOut c m a = [a] := by
  cases a with
  | ev e => rfl
  | hold n => rfl
  | setcur p => rfl
  | _ => exact nomatch h

/-- Plain actions stand for themselves. -/
theorem flatMap_writtenOut_plain (c : Params) (m : Memory) {as : List Action} (h : ∀ a ∈ as, a.plain = true) :
    as.flatMap (writtenOut c m) = as := by
  induction as with
  | nil => rfl
  | cons a as ih =>
    simp only [List.mem_cons, forall_eq_or_imp] at h
    rw [List.flatMap_cons, writtenOut_of_plain c m h.1, ih h.2]
    rfl

/-- A list that ends once has nothing left to write out. -/
theorem endsOnce_writtenOut (c : Params) (m : Memory) {as : List Action} (h : endsOnce as) :
    as.flatMap (writtenOut c m) = as := by
  obtain ⟨init, last, rfl, hlast, hinit⟩ := h
  rw [List.flatMap_append, flatMap_writtenOut_plain c m hinit]
  rcases hlast with rfl | ⟨p, rfl⟩ <;> rfl

/-- A PEND that closes is a closing action alone, or a plain action before a PEND that closes. -/
theorem closes_cons {cs dc : Level} {a : Action} {rest : List Action} (h : closes cs dc (a :: rest) = true) :
    (rest = [] ∧ (a = .done ∨ (∃ p, a = .fault seqOverrun p) ∨ ∃ p, a = .seq p)) ∨
    (a.plain = true ∧ ∃ cs' dc', closes cs' dc' rest = true) := by
  cases a with
  | ev e =>
    refine .inr ⟨rfl, ?_⟩
    cases e with
    | cs v => exact ⟨_, _, h⟩
    | dc v => exact ⟨_, _, h⟩
    | tx b => exact ⟨_, _, (Bool.and_eq_true_iff.mp h).2⟩
    | wait n => exact ⟨_, _, (Bool.and_eq_true_iff.mp h).2⟩
    | rst => exact nomatch h
  | hold n => exact .inr ⟨rfl, _, _, (Bool.and_eq_true_iff.mp h).2⟩
  | setcur p => exact .inr ⟨rfl, _, _, (Bool.and_eq_true_iff.mp h).2⟩
  | fault c p =>
    simp only [closes, Bool.and_eq_true, beq_iff_eq, List.isEmpty_iff] at h
    obtain ⟨⟨⟨⟨rfl, -⟩, -⟩, -⟩, rfl⟩ := h
    exact .inl ⟨rfl, .inr (.inl ⟨p, rfl⟩)⟩
  | done =>
    simp only [closes, Bool.and_eq_true, List.isEmpty_iff] at h
    exact .inl ⟨h.2, .inl rfl⟩
  | seq p =>
    simp only [closes, Bool.and_eq_true, List.isEmpty_iff] at h
    exact .inl ⟨h.2, .inr (.inr ⟨p, rfl⟩)⟩

theorem closes_endsOnce (c : Params) (m : Memory) {cs dc : Level} {as : List Action}
    (h : closes cs dc as = true) : endsOnce (as.flatMap (writtenOut c m)) := by
  induction as generalizing cs dc with
  | nil => exact nomatch h
  | cons a rest ih =>
    rcases closes_cons h with ⟨rfl, rfl | ⟨p, rfl⟩ | ⟨p, rfl⟩⟩ | ⟨ha, cs', dc', hrest⟩
    · exact endsOnce_done
    · exact endsOnce_fault p
    · simpa [writtenOut] using expandSeq_endsOnce c m p.toNat
    · rw [List.flatMap_cons, writtenOut_of_plain c m ha]
      exact endsOnce_cons ha (ih hrest)

/-- PEND is empty while the engine is not BUSY (R43). -/
theorem pendFull_quiet {s : State} (h : s.Inv) (hq : s.eng ≠ .busy) : s.pendFull = [] := by
  obtain ⟨hp, -⟩ := h.quiet hq
  simp [State.pendFull, hp]

/-- Settles O43: a PEND that closes, once written out, ends once. -/
theorem pendingListEndsInDoneOrFault : Obligations.PendingListEndsInDoneOrFault := by
  intro s h
  refine ⟨fun hb => ?_, pendFull_quiet h⟩
  obtain ⟨init, last, heq, hlast, hinit⟩ := closes_endsOnce s.cfg s.seqmem (h.busy hb)
  refine ⟨init, last, heq, hlast, fun a ha => ?_⟩
  have hplain := hinit a ha
  refine ⟨?_, fun c p => ?_, fun p => ?_⟩ <;> rintro rfl <;> exact nomatch hplain

end Sys2Proof.Machine

/-! PROOFS of the state family: STAGE is never observable, and PEND written out in full. -/

namespace Sys2Proof.Machine

/-- A map of states carried to outcomes. -/
def mapNext (f : State → State) : Host.Outcome State Fault Refusal → Host.Outcome State Fault Refusal
  | .next s => .next (f s)
  | .fault r => .fault r
  | .refused r => .refused r

/-! ### STAGE is never observable (R38, R101) -/

/-- `g` leaves the same state, STAGE apart, whatever STAGE holds. -/
def IgnoresStage (g : State → State) : Prop := ∀ s, (g s.withoutStage).withoutStage = (g s).withoutStage

theorem IgnoresStage.comp {g h : State → State} (hg : IgnoresStage g) (hh : IgnoresStage h) :
    IgnoresStage (g ∘ h) := fun s =>
  calc (g (h s.withoutStage)).withoutStage
    _ = (g (h s.withoutStage).withoutStage).withoutStage := (hg _).symm
    _ = (g (h s).withoutStage).withoutStage := by rw [hh]
    _ = (g (h s)).withoutStage := hg _

theorem setReject_ignoresStage : IgnoresStage setReject := fun _ => rfl
theorem setBadop_ignoresStage : IgnoresStage setBadop := fun _ => rfl
theorem resetAction_ignoresStage : IgnoresStage resetAction := fun _ => rfl
theorem overrunAtSp_ignoresStage : IgnoresStage overrunAtSp := fun _ => rfl
theorem hostRead_ignoresStage (off : BitVec 10) : IgnoresStage (hostRead off) := fun _ => rfl

theorem applyErrclr_ignoresStage (e : Bool) : IgnoresStage (applyErrclr e) := fun _ => by cases e <;> rfl

theorem writeReg_ignoresStage (off : BitVec 10) (v : Word) : IgnoresStage (writeReg off v) := fun s => by
  unfold writeReg
  split
  · rfl
  · split <;> rfl

theorem tickAction_ignoresStage : IgnoresStage tickAction := fun s => by
  unfold tickAction
  rw [State.withoutStage_pend]
  split
  · split <;> rfl
  · rfl

theorem perform_ignoresStage (a : Action) (rest : List Action) : IgnoresStage (perform a rest) := fun s => by
  cases a with
  | ev e => cases e <;> rfl
  | hold n => rw [perform_hold, perform_hold]; split <;> rfl
  | setcur p => rfl
  | fault c p => rfl
  | done => rfl
  | seq p => rfl

/-- What a start puts in PEND and SP does not depend on STAGE (R39, R101). -/
theorem acceptance_ignoresStage {f : State → State} (hf : f ∈ acceptances) : IgnoresStage f := fun s => by
  have hpend : (f s.withoutStage).pend = (f s).pend ∧ (f s.withoutStage).sp = (f s).sp := by
    simp only [acceptances, List.mem_cons, List.not_mem_nil, or_false] at hf
    rcases hf with rfl | rfl | rfl | rfl | rfl
    · exact ⟨by rw [acceptSendCmd_pend, acceptSendCmd_pend]; rfl, by simp [acceptSendCmd]⟩
    · exact ⟨rfl, rfl⟩
    · exact ⟨by rw [acceptConfigure_pend, acceptConfigure_pend]; rfl, by simp [acceptConfigure]⟩
    · exact ⟨by rw [acceptSetWindow_pend, acceptSetWindow_pend]; rfl, by simp [acceptSetWindow]⟩
    · exact ⟨by rw [acceptFill_pend, acceptFill_pend]; rfl, by simp [acceptFill]⟩
  have h := congrArg State.withoutStage (acceptance_frame hf s).1
  have h' := congrArg State.withoutStage (acceptance_frame hf s.withoutStage).1
  rw [h, h', hpend.1, hpend.2]
  simp only [State.withoutStage]

theorem startWhenIdle_ignoresStage {f : State → State} (hf : f ∈ acceptances) :
    IgnoresStage (startWhenIdle f) := fun s => by
  unfold startWhenIdle
  rw [State.withoutStage_eng]
  split
  · exact acceptance_ignoresStage hf s
  · exact setReject_ignoresStage s

theorem performOp_ignoresStage (op : BitVec 4) : IgnoresStage (performOp op) := by
  rcases performOp_kind op with h | h | ⟨f, hf, h⟩ <;> rw [h]
  · exact fun _ => rfl
  · exact setBadop_ignoresStage
  · exact startWhenIdle_ignoresStage hf

/-- Byte `i` of a frame in STAGE is the frame's own, or there is no such byte of STAGE (R100). -/
theorem stageByte_stageCopy_congr (st st' : Buffer) {bs : List Byte} {i : Nat} (hi : i < bs.length) :
    stageByte (stageCopy st bs) i = stageByte (stageCopy st' bs) i := by
  by_cases h : i < 128
  · simp [stageByte, stageCopy, h, hi]
  · simp [stageByte, h]

/-- The actions of a frame of any length depend on its bytes alone (R101). -/
theorem frame_actions_congr (st st' : Buffer) {bs : List Byte} (h : bs ≠ []) :
    (frame st bs).2 = (frame st' bs).2 := by
  have hpos := List.length_pos_of_ne_nil h
  have hargs : ∀ i ∈ List.range (bs.length - 1),
      Action.ev (.tx (stageByte (stageCopy st bs) (i + 1))) = .ev (.tx (stageByte (stageCopy st' bs) (i + 1))) :=
    fun i hi => by rw [stageByte_stageCopy_congr st st' (by have := List.mem_range.mp hi; omega)]
  simp only [frame]
  rw [stageByte_stageCopy_congr st st' hpos, List.map_congr_left hargs]

theorem runDescriptor_ignoresStage (len : Nat) (opc : Byte) (args : List Byte) (tail : List Action) :
    IgnoresStage (runDescriptor len (opc :: args) tail) := fun s => by
  have hframe := frame_actions_congr s.withoutStage.stage s.stage (List.cons_ne_nil opc args)
  by_cases h : s.sp.toNat + len ≤ s.cfg.seqBytes
  · rw [runDescriptor_fits h, runDescriptor_fits (s := s.withoutStage) h, hframe]
    simp only [State.withoutStage, setCur]
  · rw [runDescriptor_overrun (not_le.mp h), runDescriptor_overrun (s := s.withoutStage) (not_le.mp h)]
    exact overrunAtSp_ignoresStage s

theorem execSrst_ignoresStage (s : State) :
    (if s.withoutStage.eng = .busy then setReject s.withoutStage else resetAction s.withoutStage).withoutStage =
      (if s.eng = .busy then setReject s else resetAction s).withoutStage := by
  rw [State.withoutStage_eng]
  split
  · exact setReject_ignoresStage s
  · exact resetAction_ignoresStage s

theorem exec_withoutStage (i : Instr) (s : State) :
    mapNext State.withoutStage (exec i s.withoutStage) = mapNext State.withoutStage (exec i s) := by
  have start : ∀ (e : Bool), ∀ f ∈ acceptances,
      (startWhenIdle f (applyErrclr e s.withoutStage)).withoutStage =
        (startWhenIdle f (applyErrclr e s)).withoutStage := fun e f hf =>
    (startWhenIdle_ignoresStage hf).comp (applyErrclr_ignoresStage e) s
  cases i with
  | endSeq => rfl
  | cmd opc args => exact congrArg Host.Outcome.next (runDescriptor_ignoresStage _ opc args _ s)
  | cmdd opc args ms => exact congrArg Host.Outcome.next (runDescriptor_ignoresStage _ opc args _ s)
  | nop e x => exact congrArg Host.Outcome.next (applyErrclr_ignoresStage e s)
  | sendCmd e x => exact congrArg Host.Outcome.next (start e acceptSendCmd (by simp [acceptances]))
  | runSeq e x => exact congrArg Host.Outcome.next (start e acceptRunSeq (by simp [acceptances]))
  | configure e x => exact congrArg Host.Outcome.next (start e acceptConfigure (by simp [acceptances]))
  | setWindow e x => exact congrArg Host.Outcome.next (start e acceptSetWindow (by simp [acceptances]))
  | fill e x => exact congrArg Host.Outcome.next (start e acceptFill (by simp [acceptances]))
  | reservedOp67 e x r => exact congrArg Host.Outcome.next (setBadop_ignoresStage.comp (applyErrclr_ignoresStage e) s)
  | reservedOp815 e x r => exact congrArg Host.Outcome.next (setBadop_ignoresStage.comp (applyErrclr_ignoresStage e) s)
  | srst x => exact congrArg Host.Outcome.next (execSrst_ignoresStage s)
  | errclr x op => exact congrArg Host.Outcome.next ((performOp_ignoresStage op).comp (applyErrclr_ignoresStage true) s)

theorem runSeqHead_withoutStage (p : SeqPtr) (rest : List Action) (s : State) :
    mapNext State.withoutStage (runSeqHead p rest s.withoutStage) =
      mapNext State.withoutStage (runSeqHead p rest s) := by
  have hfetch : fetchDescriptor (perform (.seq p) rest s.withoutStage) = fetchDescriptor (perform (.seq p) rest s) :=
    rfl
  unfold runSeqHead
  simp only [hfetch]
  cases fetchDescriptor (perform (.seq p) rest s) with
  | accepted i r => exact exec_withoutStage i (perform (.seq p) rest s)
  | rejected e => rfl

theorem engineTurn_withoutStage (s : State) :
    mapNext State.withoutStage (engineTurn s.withoutStage) = mapNext State.withoutStage (engineTurn s) := by
  by_cases hb : s.eng = .busy
  · cases hp : s.pend with
    | nil => simp [engineTurn, hb, hp]
    | cons a rest =>
      by_cases ha : ∃ p, a = .seq p
      · obtain ⟨p, rfl⟩ := ha
        rw [engineTurn_seq hb hp, engineTurn_seq (s := s.withoutStage) hb hp]
        exact runSeqHead_withoutStage p rest s
      · rw [engineTurn_action hb hp (not_exists.mp ha),
          engineTurn_action (s := s.withoutStage) hb hp (not_exists.mp ha)]
        exact congrArg Host.Outcome.next (perform_ignoresStage a rest s)
  · rw [engineTurn_quiet hb, engineTurn_quiet (s := s.withoutStage) hb]
    rfl

theorem takeTurn_withoutStage (u : Turn) (s : State) :
    mapNext State.withoutStage (takeTurn u s.withoutStage) = mapNext State.withoutStage (takeTurn u s) := by
  cases u with
  | write off bytes v =>
    simp only [takeTurn, writeTurn]
    split
    · split
      · exact exec_withoutStage (decodeCtrl v) s
      · exact congrArg Host.Outcome.next (writeReg_ignoresStage off v s)
    · rfl
  | read off bytes =>
    simp only [takeTurn, readTurn]
    split
    · exact congrArg Host.Outcome.next (hostRead_ignoresStage off s)
    · rfl
  | engine => exact engineTurn_withoutStage s
  | tick => exact congrArg Host.Outcome.next (tickAction_ignoresStage s)
  | rstN => exact congrArg Host.Outcome.next (resetAction_ignoresStage s)

/-- A step from the state without STAGE comes to the same, STAGE apart. -/
theorem step_withoutStage (s : State) :
    mapNext State.withoutStage (step s.withoutStage) = mapNext State.withoutStage (step s) := by
  rw [step_eq, step_eq s]
  exact takeTurn_withoutStage s.nextTurn s.afterTurn

/-- Settles O50: both steps come to that of the one state without STAGE. -/
theorem stageIsNeverObservable : Obligations.StageIsNeverObservable := by
  intro s s' h
  have hmap : mapNext State.withoutStage (step s) = mapNext State.withoutStage (step s') := by
    rw [← step_withoutStage s, ← step_withoutStage s', h]
  revert hmap
  cases step s <;> cases step s' <;> simp [mapNext]

/-! ### One descriptor at a time (R39, R110, R121) -/

/-- PEND written out has nothing left to write out. -/
theorem writtenOut_writtenOut (c : Params) (m : Memory) (as : List Action) :
    (as.flatMap (writtenOut c m)).flatMap (writtenOut c m) = as.flatMap (writtenOut c m) := by
  rw [List.flatMap_assoc]
  refine List.flatMap_congr fun a _ => ?_
  cases a with
  | seq p => exact endsOnce_writtenOut c m (expandSeq_endsOnce c m p.toNat)
  | _ => rfl

theorem unfolded_unfolded (s : State) : s.unfolded.unfolded = s.unfolded :=
  congrArg (fun as => { s with pend := as }) (writtenOut_writtenOut s.cfg s.seqmem s.pend)

theorem unfolded_quiet {s : State} (h : s.Inv) (hq : s.eng ≠ .busy) : s.unfolded = s := by
  obtain ⟨hp, -⟩ := h.quiet hq
  rw [State.unfolded, pendFull_quiet h hq, ← hp]

/-- ExpandSeq begins with the setcur of its first descriptor (R121). -/
theorem expandSeq_head (c : Params) (m : Memory) (p : SeqPtr) :
    ∃ as, expandSeq c m p.toNat = .setcur p :: as := by
  rw [expandSeq_eq]
  unfold descriptorActions
  split <;> exact ⟨_, by simp [overrunActions]; rfl⟩

end Sys2Proof.Machine

/-! PROOFS of the state family: one step of the machine and one step with PEND written out agree, and an operation in flight
is undisturbed. -/

namespace Sys2Proof.Machine

theorem pendFull_cons {s : State} {a : Action} {rest : List Action} (h : s.pend = a :: rest) :
    s.pendFull = writtenOut s.cfg s.seqmem a ++ rest.flatMap (writtenOut s.cfg s.seqmem) := by
  rw [State.pendFull, h, List.flatMap_cons]

theorem dly_unfolded (s : State) : s.unfolded.dly = s.dly := by
  unfold State.dly
  rw [State.unfolded_pend]
  cases hp : s.pend with
  | nil => simp [State.pendFull, hp]
  | cons a rest =>
    rw [pendFull_cons hp]
    cases a with
    | seq p =>
      obtain ⟨as, has⟩ := expandSeq_head s.cfg s.seqmem p
      rw [writtenOut, has]
      rfl
    | _ => rfl

theorem nextTurn_unfolded (s : State) : s.unfolded.nextTurn = s.nextTurn := by
  have hown : ownTurn s.unfolded = ownTurn s := by simp [ownTurn, State.waiting, dly_unfolded]
  unfold State.nextTurn
  rw [hown]
  rfl

theorem writeReg_unfolded (off : BitVec 10) (v : Word) (s : State) :
    writeReg off v s.unfolded = (writeReg off v s).unfolded := by
  unfold writeReg
  split
  · rfl
  · split <;> rfl

theorem applyErrclr_unfolded (e : Bool) (s : State) : applyErrclr e s.unfolded = (applyErrclr e s).unfolded := by
  cases e <;> rfl

/-- While an operation runs, no OP touches PEND (R110, R186, R187). -/
theorem performOp_unfolded (op : BitVec 4) {s : State} (h : s.eng ≠ .idle) :
    performOp op s.unfolded = (performOp op s).unfolded := by
  rcases performOp_kind op with hop | hop | ⟨f, -, hop⟩ <;> rw [hop]
  · rfl
  · rfl
  · rw [startWhenIdle, startWhenIdle, State.unfolded_eng, if_neg h, if_neg h]
    rfl

theorem exec_decodeCtrl_unfolded (w : Word) {s : State} (hb : s.eng = .busy) :
    exec (decodeCtrl w) s.unfolded = mapNext State.unfolded (exec (decodeCtrl w) s) := by
  rw [exec_decodeCtrl, exec_decodeCtrl, State.unfolded_eng, if_pos hb, if_pos hb, applyErrclr_unfolded,
    performOp_unfolded _ (by simp [hb])]
  split <;> rfl

theorem tickAction_unfolded (s : State) : tickAction s.unfolded = (tickAction s).unfolded := by
  unfold tickAction
  rw [State.unfolded_pend]
  cases hp : s.pend with
  | nil => simp [State.pendFull, hp]
  | cons a rest =>
    rw [pendFull_cons hp]
    cases a with
    | hold n =>
      simp only [writtenOut, List.singleton_append]
      split <;> rfl
    | seq p =>
      obtain ⟨as, has⟩ := expandSeq_head s.cfg s.seqmem p
      rw [writtenOut, has]
      rfl
    | _ => rfl

/-- A turn of the host, the time base or RST_N does the same to PEND written out. -/
theorem takeTurn_unfolded {u : Turn} (hu : u ≠ .engine) {s : State} (hb : s.eng = .busy) :
    takeTurn u s.unfolded = mapNext State.unfolded (takeTurn u s) := by
  cases u with
  | write off bytes v =>
    simp only [takeTurn, writeTurn]
    split
    · split
      · exact exec_decodeCtrl_unfolded v hb
      · exact congrArg Host.Outcome.next (writeReg_unfolded off v s)
    · rfl
  | read off bytes =>
    simp only [takeTurn, readTurn]
    split <;> rfl
  | engine => exact absurd rfl hu
  | tick => exact congrArg Host.Outcome.next (tickAction_unfolded s)
  | rstN => rfl

/-- Performing any action but a descriptor does the same to PEND written out (R111). -/
theorem perform_unfolded {a : Action} (rest : List Action) {s : State} (hp : s.pend = a :: rest)
    (ha : ∀ p, a ≠ .seq p) :
    perform a (rest.flatMap (writtenOut s.cfg s.seqmem)) s.unfolded = (perform a rest s).unfolded := by
  cases a with
  | ev e => cases e <;> rfl
  | hold n => rw [perform_hold, perform_hold]; split <;> rfl
  | setcur p => rfl
  | fault c p => rfl
  | done => rfl
  | seq p => exact absurd rfl (ha p)

/-- Reaching the descriptor at `p` is the spec's `setcur(p)`: what it leaves in PEND is what stands after that setcur in
ExpandSeq(p) (R111, R121). -/
theorem runSeqHead_writtenOut {p : SeqPtr} {rest : List Action} {s t : State} (h : runSeqHead p rest s = .next t) :
    ∃ st, t = { s with sp := p, seqCur := p, stage := st, pend := t.pend } ∧
      expandSeq s.cfg s.seqmem p.toNat ++ rest.flatMap (writtenOut s.cfg s.seqmem) = .setcur p :: t.pendFull := by
  have hp : BitVec.ofNat 17 p.toNat = p := by simp
  rw [expandSeq_eq]
  rcases runSeqHead_result p rest s with ⟨hd, hr⟩ | ⟨opc, args, q, r, -, hd, hq, -, hr⟩ |
    ⟨opc, args, ms, q, r, -, hd, hq, -, hr⟩ | ⟨e, hd, hr⟩ <;>
    obtain rfl := Host.Outcome.next.inj (h.symm.trans hr) <;> refine ⟨_, rfl, ?_⟩ <;>
    simp only [hd, descriptorActions, overrunActions, hp, State.pendFull, List.flatMap_append, List.flatMap_cons,
      List.append_assoc, List.cons_append, List.nil_append]
  · rfl
  · rw [flatMap_writtenOut_plain _ _ (frameActions_plain _), ← hq]
    rfl
  · rw [flatMap_writtenOut_plain _ _ (frameActions_plain _), ← hq]
    rfl
  · rfl

/-- The engine's step on PEND written out: `setcur` in the place of a descriptor, and the same action otherwise. -/
theorem engineTurn_unfolded {s t : State} (hb : s.eng = .busy) (h : engineTurn s = .next t) :
    ∃ u, engineTurn s.unfolded = .next u ∧ u.withoutStage = t.unfolded.withoutStage := by
  cases hp : s.pend with
  | nil => simp [engineTurn, hb, hp] at h
  | cons a rest =>
    have hfull := pendFull_cons hp
    by_cases ha : ∃ p, a = .seq p
    · obtain ⟨p, rfl⟩ := ha
      rw [engineTurn_seq hb hp] at h
      obtain ⟨st, ht, hexp⟩ := runSeqHead_writtenOut h
      rw [writtenOut, hexp] at hfull
      refine ⟨_, engineTurn_action (s := s.unfolded) hb hfull (by simp), ?_⟩
      rw [ht]
      rfl
    · have hne := not_exists.mp ha
      rw [engineTurn_action hb hp hne] at h
      obtain rfl := Host.Outcome.next.inj h
      have hone : writtenOut s.cfg s.seqmem a = [a] := by
        cases a with
        | seq p => exact absurd rfl (hne p)
        | _ => rfl
      rw [hone, List.singleton_append] at hfull
      exact ⟨_, engineTurn_action (s := s.unfolded) hb hfull hne, by rw [perform_unfolded rest hp hne]⟩

/-- A step from PEND written out comes to the same, written out, STAGE apart. -/
theorem step_unfolded {s t : State} (h : s.Inv) (hst : step s = .next t) :
    ∃ u, step s.unfolded = .next u ∧ u.unfolded.withoutStage = t.unfolded.withoutStage := by
  by_cases hb : s.eng = .busy
  · rw [step_eq] at hst
    rw [step_eq, nextTurn_unfolded]
    by_cases hu : s.nextTurn = .engine
    · rw [hu] at hst ⊢
      obtain ⟨u, hstep, hview⟩ := engineTurn_unfolded (s := s.afterTurn) hb hst
      refine ⟨u, hstep, ?_⟩
      calc u.unfolded.withoutStage
        _ = u.withoutStage.unfolded := rfl
        _ = t.unfolded.unfolded.withoutStage := by rw [hview]; rfl
        _ = t.unfolded.withoutStage := by rw [unfolded_unfolded]
    · refine ⟨t.unfolded, ?_, by rw [unfolded_unfolded]⟩
      exact (takeTurn_unfolded hu (s := s.afterTurn) hb).trans (congrArg (mapNext State.unfolded) hst)
  · exact ⟨t, by rwa [unfolded_quiet h hb], rfl⟩

/-- Settles O51, by `step_unfolded`. -/
theorem fetchingOneAtATimeRefinesWholeExpansion : Obligations.FetchingOneAtATimeRefinesWholeExpansion :=
  fun _ _ h hst => step_unfolded h hst

/-! ### An operation in flight (R39, R190) -/

theorem finalTrace_engineView (s : State) : s.engineView.finalTrace = s.finalTrace := rfl

theorem tickAction_finalTrace (s : State) : (tickAction s).finalTrace = s.finalTrace := by
  rcases tickAction_cases s with ⟨-, ht⟩ | ⟨n, rest, hp, -, ht⟩ <;> rw [ht]
  simp [State.finalTrace, State.pendFull, hp, writtenOut, eventsOf]

/-- The engine moves the event at the head of PEND to the end of TR, and a closing action is the last of PEND (R43, R111). -/
theorem perform_finalTrace {s : State} (h : s.Inv) (hb : s.eng = .busy) {a : Action} {rest : List Action}
    (hp : s.pend = a :: rest) (ha : ∀ p, a ≠ .seq p) : (perform a rest s).finalTrace = s.finalTrace := by
  have hc := h.busy hb
  rw [hp] at hc
  simp only [State.finalTrace, pendFull_cons hp]
  rcases closes_cons hc with ⟨rfl, rfl | ⟨p, rfl⟩ | ⟨p, rfl⟩⟩ | ⟨hplain, -⟩
  · rfl
  · rfl
  · exact absurd rfl (ha p)
  · cases a with
    | ev e => simp [perform, State.pendFull, writtenOut, eventsOf]
    | hold n =>
      rw [perform_hold]
      split
      · rfl
      · simp [pendFull_cons hp]
    | setcur p => rfl
    | _ => exact nomatch hplain

theorem runSeqHead_finalTrace {p : SeqPtr} {rest : List Action} {s t : State} (hp : s.pend = .seq p :: rest)
    (h : runSeqHead p rest s = .next t) : t.finalTrace = s.finalTrace := by
  obtain ⟨st, ht, hexp⟩ := runSeqHead_writtenOut h
  have htr : t.tr = s.tr := by rw [ht]
  rw [State.finalTrace, State.finalTrace, pendFull_cons hp, writtenOut, hexp, htr]
  rfl

/-- Settles O52: of the ways `step_effect` gives, an accepted start and SRST need an engine that is not BUSY, and each of
the others keeps TR followed by the events of PEND. -/
theorem operationInFlightIsUndisturbed : Obligations.OperationInFlightIsUndisturbed := by
  intro s t h hb hn hst
  have hturn : s.afterTurn.Inv := inv_of_engineView_eq (afterTurn_engineView s) h
  rcases step_effect hst with hv | ⟨hi, -⟩ | ⟨hr, -⟩ | rfl | ⟨-, -, a, rest, hp, ha, rfl⟩ |
    ⟨-, -, p, rest, hp, hr⟩
  · rw [← finalTrace_engineView, hv, finalTrace_engineView]
  · simp [hb] at hi
  · exact absurd hb (hr.resolve_left hn)
  · exact tickAction_finalTrace s.afterTurn
  · exact perform_finalTrace hturn hb hp ha
  · exact runSeqHead_finalTrace (s := s.afterTurn) hp hr

end Sys2Proof.Machine

/-! PROOFS of the state family: CTRL writes, the starts, and who writes FAULT_PTR and SEQ_CUR. -/

namespace Sys2Proof.Machine

/-! ### CTRL writes and starts -/

/-- A step with a CTRL write placed, in R22's order. -/
theorem step_ctrlWrite {s : State} {v : Word} {later : List Turn} (h : s.turns = .write 0x000#10 4 v :: later) :
    step s = exec (decodeCtrl v) { s with turns := later } := by
  rw [step_turn h]
  exact writeTurn_ctrl v _

/-- Settles O10, by `step_ctrlWrite`. -/
theorem stepRunsCtrlWrite : Obligations.StepRunsCtrlWrite := fun _ _ _ h => step_ctrlWrite h

/-- An accepted start leaves something to do, and changes ENG, PEND, SP, STAGE and the flags ERRCLR clears alone (R110). -/
theorem acceptance_applyErrclr {f : State → State} (hf : f ∈ acceptances) (e : Bool) (s : State) :
    (f (applyErrclr e s)).pend ≠ [] ∧
    f (applyErrclr e s) =
      { s with
        reject := !e && s.reject, badop := !e && s.badop, eng := .busy, pend := (f (applyErrclr e s)).pend,
        sp := (f (applyErrclr e s)).sp, stage := (f (applyErrclr e s)).stage } := by
  obtain ⟨hframe, -⟩ := acceptance_frame hf (applyErrclr e s)
  obtain ⟨-, hcloses⟩ := acceptance_closes hf (applyErrclr e s)
  refine ⟨fun hnil => ?_, ?_⟩
  · rw [hnil] at hcloses
    exact nomatch hcloses
  · conv_lhs => rw [hframe]
    rw [applyErrclr_eq]

/-- Settles O11: `exec_decodeCtrl` with the value of each field put in. -/
theorem ctrlWriteIsHandledInOrder : Obligations.CtrlWriteIsHandledInOrder := by
  refine ⟨fun s w later h => ?_, fun _ => rfl⟩
  rw [step_ctrlWrite h, exec_decodeCtrl]
  have herr := applyErrclr_eq (w.getLsbD 30) { s with turns := later }
  refine ⟨fun h31 hb => ?_, fun h31 hb => ?_, fun h31 hop => ?_, fun h31 hop => ?_, fun h31 h₁ h₅ hi => ?_,
    fun h31 h₁ h₅ hi => ?_⟩
  · rw [if_pos h31, if_pos hb]
    rfl
  · rw [if_pos h31, if_neg hb]
  all_goals rw [if_neg (Bool.eq_false_iff.mp h31)]
  · rw [performOp_nop hop, herr]
    rfl
  · rw [performOp_reserved hop, herr]
    rfl
  · obtain ⟨f, -, hf⟩ := performOp_start h₁ h₅
    rw [hf, startWhenIdle, if_neg (by simpa using hi), herr]
    rfl
  · obtain ⟨f, hmem, hf⟩ := performOp_start h₁ h₅
    rw [hf, startWhenIdle, if_pos (by simpa using hi)]
    exact ⟨_, rfl, acceptance_applyErrclr hmem _ _⟩

/-- Settles O21: the one stored action stands for ExpandSeq(SEQ_START). -/
theorem runSeqStart : Obligations.RunSeqStart := by
  intro e x s hi
  obtain ⟨-, hrun, -⟩ := exec_starts_idle e x hi
  refine ⟨_, hrun, by rw [applyErrclr_eq]; rfl, ?_⟩
  have hentry : (seqEntry (applyErrclr e s)).toNat = s.seqStart.toNat := by
    have := s.seqStart.isLt
    simp [seqEntry]
    omega
  simp [State.pendFull, writtenOut, hentry]

/-- Settles O26, from the laws that give both spellings of a shared word one meaning. -/
theorem errclrClearsThenPerformsOp : Obligations.ErrclrClearsThenPerformsOp := by
  intro x s
  obtain ⟨-, h₁, h₂, h₃, h₄, h₅⟩ := exec_errclr_op x s
  refine ⟨rfl, fun op hop => ?_, ⟨_, h₁, rfl⟩, ⟨_, h₂, rfl⟩, ⟨_, h₃, rfl⟩, ⟨_, h₄, rfl⟩, ⟨_, h₅, rfl⟩⟩
  rw [exec, execErrclr, performOp_reserved hop]
  rfl

/-- PEND written out depends on the stored PEND, SEQMEM and the parameters alone. -/
theorem pendFull_congr {s s' : State} (hc : s.cfg = s'.cfg) (hm : s.seqmem = s'.seqmem) (hp : s.pend = s'.pend) :
    s.pendFull = s'.pendFull := by
  rw [State.pendFull, State.pendFull, hc, hm, hp]

/-- Settles O27: each start's PEND is made of the frames of its own operands. -/
theorem operationReadsOnlyItsOperands : Obligations.OperationReadsOnlyItsOperands := by
  intro e e' x x' s s' hi hi' hc hm
  obtain ⟨h₁, h₂, h₃, h₄, h₅⟩ := exec_starts_idle e x hi
  obtain ⟨h₁', h₂', h₃', h₄', h₅'⟩ := exec_starts_idle e' x' hi'
  refine ⟨fun hcmd hargs => ⟨_, _, h₁, h₁', ?_⟩, fun hstart => ⟨_, _, h₂, h₂', ?_⟩,
    fun hmad hfrm => ⟨_, _, h₃, h₃', ?_⟩, fun hX hY hW hH => ⟨_, _, h₄, h₄', ?_⟩, fun hW hH => ⟨_, _, h₅, h₅', ?_⟩⟩
  · refine pendFull_congr (by simpa [acceptSendCmd] using hc) (by simpa [acceptSendCmd] using hm) ?_
    have hbytes : sendCmdBytes (applyErrclr e s) = sendCmdBytes (applyErrclr e' s') := by
      simp only [sendCmdBytes, State.cmdOpcode, State.cmdArglen, applyErrclr_cmd, applyErrclr_argbuf, hargs]
      rw [hcmd]
    rw [acceptSendCmd_pend, acceptSendCmd_pend, hbytes]
  · exact pendFull_congr (by simpa using hc) (by simpa using hm) (by simp [seqEntry, hstart])
  · refine pendFull_congr (by simpa [acceptConfigure] using hc) (by simpa [acceptConfigure] using hm) ?_
    simp [acceptConfigure_pend, madctlBytes, frmctrBytes, hc, hmad, hfrm]
  · refine pendFull_congr (by simpa [acceptSetWindow] using hc) (by simpa [acceptSetWindow] using hm) ?_
    simp [acceptSetWindow_pend, rowsetBytes, colsetBytes, hc, hX, hY, hW, hH]
  · refine pendFull_congr (by simpa [acceptFill] using hc) (by simpa [acceptFill] using hm) ?_
    simp [acceptFill_pend, fillBytes, hc, hW, hH]

/-! ### FAULT_PTR and SEQ_CUR (R25, R26) -/

/-- The actions that write FAULT_PTR and SEQ_CUR, a descriptor apart (R111). -/
theorem perform_pointers (a : Action) (rest : List Action) (s : State) :
    ((perform a rest s).faultPtr = s.faultPtr ∨ ∃ c, a = .fault c (perform a rest s).faultPtr) ∧
    ((perform a rest s).seqCur = s.seqCur ∨ a = .setcur (perform a rest s).seqCur ∨
      ∃ c, a = .fault c (perform a rest s).seqCur) := by
  cases a with
  | ev e => exact ⟨.inl (by simp [perform]), .inl (by simp [perform])⟩
  | hold n =>
    rw [perform_hold]
    split <;> exact ⟨.inl rfl, .inl rfl⟩
  | setcur p => exact ⟨.inl rfl, .inr (.inl rfl)⟩
  | fault c p => exact ⟨.inr ⟨c, rfl⟩, .inr (.inr ⟨c, rfl⟩)⟩
  | done => exact ⟨.inl rfl, .inl rfl⟩
  | seq p => exact ⟨.inl rfl, .inl rfl⟩

/-- Settles O46, by `step_effect`. -/
theorem faultPtrWrittenOnlyByFaultOrReset : Obligations.FaultPtrWrittenOnlyByFaultOrReset := by
  intro s t hst
  rcases step_effect hst with hv | ⟨-, f, hf, e, rfl⟩ | ⟨-, rfl⟩ | rfl | ⟨hn, hb, a, rest, hp, ha, rfl⟩ |
    ⟨-, -, p, rest, hp, hr⟩
  · exact .inl (by simpa using congrArg State.faultPtr hv)
  · obtain ⟨-, hframe⟩ := acceptance_applyErrclr hf e s.afterTurn
    exact .inl (by rw [hframe]; rfl)
  · exact .inr (.inr ⟨rfl, rfl⟩)
  · exact .inl (by simp)
  · rcases (perform_pointers a rest s.afterTurn).1 with h | ⟨c, h⟩
    · exact .inl h
    · exact .inr (.inl ⟨hb, hn, c, rest, hp.trans (congrArg (· :: rest) h)⟩)
  · obtain ⟨st, ht, -⟩ := runSeqHead_writtenOut hr
    exact .inl (by rw [ht]; rfl)

/-- Settles O47, by `step_effect`. -/
theorem seqCurWrittenOnlyByInterpreterOrReset : Obligations.SeqCurWrittenOnlyByInterpreterOrReset := by
  intro s t hst
  rcases step_effect hst with hv | ⟨-, f, hf, e, rfl⟩ | ⟨-, rfl⟩ | rfl | ⟨hn, hb, a, rest, hp, ha, rfl⟩ |
    ⟨hn, hb, p, rest, hp, hr⟩
  · exact .inl (by simpa using congrArg State.seqCur hv)
  · obtain ⟨-, hframe⟩ := acceptance_applyErrclr hf e s.afterTurn
    exact .inl (by rw [hframe]; rfl)
  · exact .inr (.inr ⟨rfl, rfl⟩)
  · exact .inl (by simp)
  · rcases (perform_pointers a rest s.afterTurn).2 with h | h
    · exact .inl h
    · exact .inr (.inl ⟨hb, hn, a, rest, hp, .inr h⟩)
  · obtain ⟨st, ht, -⟩ := runSeqHead_writtenOut hr
    exact .inr (.inl ⟨hb, hn, _, rest, hp, .inl (by rw [ht])⟩)

/-! ### Ticks (R42) -/

/-- Settles O33: the two cases of `tickAction_cases`. -/
theorem tickCountsDownHoldOnly : Obligations.TickCountsDownHoldOnly := by
  intro s later h
  have hstep : step s = .next (tickAction { s with turns := later }) := step_turn h
  rcases tickAction_cases { s with turns := later } with ⟨hover, ht⟩ | ⟨n, rest, hp, hn, ht⟩
  · refine ⟨fun n rest hp hn => absurd (hover n rest hp) hn, fun _ => by rw [hstep, ht]⟩
  · refine ⟨fun n' rest' hp' _ => ?_, fun hnone => absurd (hnone n rest hp) hn⟩
    obtain ⟨hhold, rfl⟩ := List.cons.inj (hp'.symm.trans hp)
    obtain rfl := Action.hold.inj hhold
    exact ⟨n' - 1#8, by bv_omega, by rw [hstep, ht]⟩

/-! ### Power-on (R48, R222) -/

/-- Settles O7: SEQMEM is the load of SEQ_IMAGE. -/
theorem powerOnState : Obligations.PowerOnState := by
  refine ⟨⟨_, rfl⟩, fun p hp => ?_⟩
  have hp' : p < Config.chip.seqBytes := hp
  have h := Memory.read_load 0 p ((List.range Config.chip.seqBytes).map Config.seqImage)
  rw [Nat.zero_add] at h
  exact h.trans (by simp [hp'])

/-- Settles O8: the loaded image is canonical, and the rest is the reset table. -/
theorem powerOnStateSatisfiesInvariant : Obligations.PowerOnStateSatisfiesInvariant where
  memory := chipImage_wf
  csN := rfl
  dc := rfl
  busy h := nomatch h
  quiet _ := ⟨rfl, rfl, rfl⟩
  cause := rfl
  pointers := by decide

end Sys2Proof.Machine

/-! PROOFS of the state family: the register window (R21 to R36). -/

namespace Sys2Proof.Machine

/-! ### Register writes -/

/-- ARGBUF is the upper half of the window (R34). -/
theorem isArgbuf_iff (off : BitVec 10) : isArgbuf off = true ↔ 0x200 ≤ off.toNat := by
  rw [isArgbuf, ← BitVec.msb_eq_getLsbD_last (x := off), BitVec.msb_eq_decide]
  simp

/-- A step with a 32-bit write to another register than CTRL placed (R21, R67). -/
theorem step_writeReg {s : State} {off : BitVec 10} {v : Word} {later : List Turn}
    (h : s.turns = .write off 4 v :: later) (ha : off.extractLsb' 0 2 = 0#2) (h0 : off ≠ 0x000#10) :
    step s = .next (writeReg off v { s with turns := later }) := by
  rw [step_turn h]
  simp [takeTurn, writeTurn, accessOk, ha, h0]

/-- A register write changes operand registers alone (R36). -/
theorem writeReg_frame (off : BitVec 10) (v : Word) (s : State) :
    writeReg off v s =
      { s with
        seqStart := (writeReg off v s).seqStart, cmd := (writeReg off v s).cmd, madctl := (writeReg off v s).madctl,
        frmctr := (writeReg off v s).frmctr, winX := (writeReg off v s).winX, winY := (writeReg off v s).winY,
        winW := (writeReg off v s).winW, winH := (writeReg off v s).winH, argbuf := (writeReg off v s).argbuf } := by
  rcases writeReg_cases off v s with h | ⟨r, h⟩ | ⟨r, h⟩ | ⟨r, h⟩ | ⟨r, h⟩ | ⟨r, h⟩ | ⟨r, h⟩ | ⟨r, h⟩ | ⟨r, h⟩ | ⟨r, h⟩ <;>
    rw [h]

/-- Two aligned offsets of ARGBUF with the same index are one (R34). -/
theorem argbufIndex_injective {off off' : BitVec 10} (h : isArgbuf off = true) (h' : isArgbuf off' = true)
    (ha : off.extractLsb' 0 2 = 0#2) (ha' : off'.extractLsb' 0 2 = 0#2)
    (hk : argbufIndex off = argbufIndex off') : off = off' := by
  rw [isArgbuf_iff] at h h'
  have hlt := off.isLt
  have hlt' := off'.isLt
  have hk' : off.toNat / 4 % 128 = off'.toNat / 4 % 128 := by
    simpa [argbufIndex, BitVec.extractLsb'_toNat, Nat.shiftRight_eq_div_pow] using congrArg Fin.val hk
  have hz : off.toNat % 4 = 0 := by simpa [BitVec.extractLsb'_toNat] using congrArg BitVec.toNat ha
  have hz' : off'.toNat % 4 = 0 := by simpa [BitVec.extractLsb'_toNat] using congrArg BitVec.toNat ha'
  exact BitVec.eq_of_toNat_eq (by omega)

/-- A write changes what is read at its own offset alone (R21): of the reads, only the one at the offset written shows the
field, and `hval` excludes it. -/
theorem readReg_writeReg_other {off off' : BitVec 10} (v : Word) (s : State) (hne : off' ≠ off)
    (ha : off.extractLsb' 0 2 = 0#2) (ha' : off'.extractLsb' 0 2 = 0#2) :
    readReg off' (writeReg off v s) = readReg off' s := by
  have hval : off'.toNat ≠ off.toNat := fun h => hne (BitVec.eq_of_toNat_eq h)
  unfold writeReg
  split
  case isTrue hoff =>
    unfold readReg
    split
    case isTrue hoff' =>
      have hk : (argbufIndex off).val ≠ (argbufIndex off').val := fun h =>
        hne (argbufIndex_injective hoff hoff' ha ha' (Fin.ext h)).symm
      simp only [Vector.get_eq_getElem, Vector.getElem_set_ne _ _ hk]
    case isFalse => rfl
  case isFalse =>
    split
    case h_9 => rfl
    all_goals
      rename_i hoff
      rw [hoff] at hval
      unfold readReg
      split
      · rfl
      · split <;> first | contradiction | rfl

/-- A field of `n` bits reads back as the bits of the word that it has (R21). -/
theorem setWidth_setWidth_eq_and (v : Word) {n : Nat} (hn : n ≤ 32) :
    (v.setWidth n).setWidth 32 = v &&& BitVec.ofNat 32 (2 ^ n - 1) := by
  have hle : 2 ^ n ≤ 2 ^ 32 := Nat.pow_le_pow_right (by decide) hn
  have hpos : 0 < 2 ^ n := Nat.two_pow_pos n
  apply BitVec.eq_of_toNat_eq
  rw [BitVec.toNat_setWidth, BitVec.toNat_setWidth, BitVec.toNat_and, BitVec.toNat_ofNat,
    Nat.mod_eq_of_lt (a := 2 ^ n - 1) (by omega), Nat.and_two_pow_sub_one_eq_mod,
    Nat.mod_eq_of_lt (lt_of_lt_of_le (Nat.mod_lt _ hpos) hle)]

theorem readReg_writeReg_argbuf (k : Fin 128) (v : Word) (s : State) :
    readReg (BitVec.ofNat 10 (0x200 + 4 * k.val)) (writeReg (BitVec.ofNat 10 (0x200 + 4 * k.val)) v s) =
      (v.setWidth 8).setWidth 32 := by
  simp [writeReg_argbuf, readReg, Vector.get_eq_getElem]

/-- The offsets and the masks of the read-write registers (R24, R27 to R34). -/
def operandMasks : List (BitVec 10 × Word) :=
  [(0x008#10, 0xFFFF#32), (0x014#10, 0x7FFF#32), (0x018#10, 0xFF#32), (0x01C#10, 0xFFFFFF#32),
    (0x020#10, 0xFFFF#32), (0x024#10, 0xFFFF#32), (0x028#10, 0xFFFF#32), (0x02C#10, 0xFFFF#32)]

theorem argbuf_offset_aligned (k : Fin 128) :
    (BitVec.ofNat 10 (0x200 + 4 * k.val)).extractLsb' 0 2 = 0#2 ∧ BitVec.ofNat 10 (0x200 + 4 * k.val) ≠ 0x000#10 := by
  revert k; decide

/-- A write to a read-write register reads back masked (R21, R24, R27 to R34). -/
theorem readReg_writeReg_same {off : BitVec 10} {mask : Word} (v : Word) (s : State)
    (h : (off, mask) ∈ operandMasks ∨ (mask = 0xFF#32 ∧ ∃ k < 128, off = BitVec.ofNat 10 (0x200 + 4 * k))) :
    off.extractLsb' 0 2 = 0#2 ∧ off ≠ 0x000#10 ∧ readReg off (writeReg off v s) = v &&& mask := by
  rcases h with h | ⟨rfl, k, hk, rfl⟩
  · simp only [operandMasks, List.mem_cons, Prod.mk.injEq, List.not_mem_nil, or_false] at h
    rcases h with ⟨rfl, rfl⟩ | ⟨rfl, rfl⟩ | ⟨rfl, rfl⟩ | ⟨rfl, rfl⟩ | ⟨rfl, rfl⟩ | ⟨rfl, rfl⟩ | ⟨rfl, rfl⟩ | ⟨rfl, rfl⟩ <;>
      refine ⟨by decide, by decide, ?_⟩
    · exact setWidth_setWidth_eq_and (n := 16) v (by decide)
    · exact setWidth_setWidth_eq_and (n := 15) v (by decide)
    · exact setWidth_setWidth_eq_and (n := 8) v (by decide)
    · exact setWidth_setWidth_eq_and (n := 24) v (by decide)
    · exact setWidth_setWidth_eq_and (n := 16) v (by decide)
    · exact setWidth_setWidth_eq_and (n := 16) v (by decide)
    · exact setWidth_setWidth_eq_and (n := 16) v (by decide)
    · exact setWidth_setWidth_eq_and (n := 16) v (by decide)
  · obtain ⟨ha, h0⟩ := argbuf_offset_aligned ⟨k, hk⟩
    exact ⟨ha, h0, (readReg_writeReg_argbuf ⟨k, hk⟩ v s).trans (setWidth_setWidth_eq_and v (by decide))⟩

/-- Settles O34: the step is `writeReg`, which `readReg` reads back masked at its own offset and as before elsewhere. -/
theorem operandWriteReadsBackMasked : Obligations.OperandWriteReadsBackMasked := by
  intro s later off mask v h hoff
  obtain ⟨ha, h0, hsame⟩ := readReg_writeReg_same v { s with turns := later } hoff
  refine ⟨_, step_writeReg h ha h0, hsame, fun off' hne ha' => ?_, writeReg_frame off v _⟩
  exact readReg_writeReg_other v { s with turns := later } hne ha ha'

/-- The read-only registers and the reserved offsets 0x030 to 0x1FC (R23, R25, R26, R35). -/
def readOnlyOffset (off : BitVec 10) : Prop :=
  off = 0x004#10 ∨ off = 0x00C#10 ∨ off = 0x010#10 ∨ (0x030 ≤ off.toNat ∧ off.toNat < 0x200)

theorem writeReg_readOnly {off : BitVec 10} (h : readOnlyOffset off) (v : Word) (s : State) :
    writeReg off v s = s := by
  rcases h with rfl | rfl | rfl | ⟨hlo, hhi⟩
  · rfl
  · rfl
  · rfl
  · have hbuf : ¬ isArgbuf off = true := fun hb => absurd ((isArgbuf_iff off).mp hb) (by omega)
    rw [writeReg, if_neg hbuf]
    split
    case h_9 => rfl
    all_goals omega

theorem readReg_reserved {off : BitVec 10} (hlo : 0x030 ≤ off.toNat) (hhi : off.toNat < 0x200) (s : State) :
    readReg off s = 0#32 := by
  have hbuf : ¬ isArgbuf off = true := fun hb => absurd ((isArgbuf_iff off).mp hb) (by omega)
  rw [readReg, if_neg hbuf]
  split
  case h_12 => rfl
  all_goals omega

/-- Settles O35: `writeReg` has no case for those offsets, and `readReg` none for the reserved ones. -/
theorem readOnlyAndReservedOffsetsIgnoreWrites : Obligations.ReadOnlyAndReservedOffsetsIgnoreWrites := by
  refine ⟨fun s later off v h ha hoff => ?_, fun s off hoff => ?_⟩
  · have h0 : off ≠ 0x000#10 := by
      rintro rfl
      simp at hoff
    rw [step_writeReg h ha h0, writeReg_readOnly hoff]
  · rcases hoff with rfl | ⟨hlo, hhi⟩
    · rfl
    · exact readReg_reserved hlo hhi s

/-! ### Register reads -/

/-- Settles O38: no field is wider than a word. -/
theorem registersReadZeroExtended : Obligations.RegistersReadZeroExtended := by
  have wide : ∀ {n : Nat} (x : BitVec n), n ≤ 32 → (x.setWidth 32).toNat = x.toNat := fun _ hn =>
    BitVec.toNat_setWidth_of_le hn
  refine fun s => ⟨wide s.seqStart (by decide), wide s.seqCur (by decide), wide s.faultPtr (by decide),
    wide s.cmd (by decide), wide s.madctl (by decide), wide s.frmctr (by decide), wide s.winX (by decide),
    wide s.winY (by decide), wide s.winW (by decide), wide s.winH (by decide), fun k => ?_⟩
  rw [readReg, if_pos (isArgbuf_offset k), argbufIndex_val]
  exact wide s.argbuf[k] (by decide)

/-- Bit `i` of STATUS, by the field it lies in (R23). -/
theorem statusWord_getLsbD (s : State) (i : Nat) :
    s.statusWord.getLsbD i =
      if i < 12 then
        if i < 8 then
          if i < 4 then
            if i < 3 then
              if i < 2 then
                if i < 1 then (BitVec.ofBool s.busyBit).getLsbD i else (BitVec.ofBool s.faultBit).getLsbD (i - 1)
              else (BitVec.ofBool s.reject).getLsbD (i - 2)
            else (BitVec.ofBool s.badop).getLsbD (i - 3)
          else (0#4).getLsbD (i - 4)
        else s.cause.getLsbD (i - 8)
      else (0#20).getLsbD (i - 12) := by
  have h : s.statusWord =
      (0#20 ++ (s.cause ++ (0#4 ++ (BitVec.ofBool s.badop ++ (BitVec.ofBool s.reject ++
        (BitVec.ofBool s.faultBit ++ BitVec.ofBool s.busyBit))))) : BitVec (20 + (4 + (4 + (1 + (1 + (1 + 1))))))) := rfl
  rw [h, BitVec.getLsbD_append, BitVec.getLsbD_append, BitVec.getLsbD_append, BitVec.getLsbD_append,
    BitVec.getLsbD_append, BitVec.getLsbD_append]

/-- Settles O37: the fields of `statusWord`, and the invariant's CAUSE. -/
theorem statusFields : Obligations.StatusFields := by
  intro s h
  have hread : readReg 0x004#10 s = s.statusWord := rfl
  have hbusy : s.statusWord.getLsbD 0 = s.busyBit := by rw [statusWord_getLsbD]; simp
  have hfault : s.statusWord.getLsbD 1 = s.faultBit := by rw [statusWord_getLsbD]; simp
  have hcause : s.statusWord.extractLsb' 8 4 = s.cause := by
    apply BitVec.eq_of_getLsbD_eq
    intro i hi
    rw [BitVec.getLsbD_extractLsb', statusWord_getLsbD, if_pos (by omega), if_neg (by omega)]
    simp [hi]
  rw [hread, hbusy, hfault]
  refine ⟨by simp [State.busyBit], by simp [State.faultBit], by rw [statusWord_getLsbD]; simp,
    by rw [statusWord_getLsbD]; simp, ?_, hcause, ?_, fun hf => ?_⟩
  · apply BitVec.eq_of_getLsbD_eq
    intro i hi
    rw [BitVec.getLsbD_extractLsb', statusWord_getLsbD, if_pos (by omega), if_pos (by omega), if_neg (by omega)]
    simp
  · apply BitVec.eq_of_getLsbD_eq
    intro i hi
    rw [BitVec.getLsbD_extractLsb', statusWord_getLsbD, if_neg (by omega)]
    simp
  · have hnf : s.eng ≠ .fault := by simpa [State.faultBit] using hf
    rw [hcause, h.cause, if_neg hnf]

end Sys2Proof.Machine

/-! PROOFS of the memory family (spec/20_memory.md). First host accesses and the window; then what stops the
machine, and what no step writes; then an operation's run to its end, step by step. -/

namespace Sys2Proof.Machine

/-! ### Host accesses (R67, R69) -/

theorem accessOk_iff (off : BitVec 10) (bytes : Nat) :
    accessOk off bytes = true ↔ bytes = 4 ∧ off.extractLsb' 0 2 = 0#2 := by
  simp [accessOk]

theorem accessOk_eq_false_iff (off : BitVec 10) (bytes : Nat) :
    accessOk off bytes = false ↔ bytes ≠ 4 ∨ off.extractLsb' 0 2 ≠ 0#2 := by
  rw [← Bool.not_eq_true, accessOk_iff, not_and_or]

theorem readTurn_ok {off : BitVec 10} {bytes : Nat} (h : accessOk off bytes = true) (s : State) :
    readTurn off bytes s = .next (hostRead off s) := if_pos h

/-- An access of another form is refused, whatever it asks for (R67). -/
theorem access_refused {off : BitVec 10} {bytes : Nat} (h : accessOk off bytes = false) (v : Word) (s : State) :
    writeTurn off bytes v s = .refused .hostAccessForm ∧ readTurn off bytes s = .refused .hostAccessForm := by
  have hno : ¬ accessOk off bytes = true := by simp [h]
  exact ⟨if_neg hno, if_neg hno⟩

/-- Settles O36: an aligned 32-bit read is `hostRead`, which writes `rdata` alone. -/
theorem hostReadHasNoSideEffect : Obligations.HostReadHasNoSideEffect := by
  intro s later off h ha
  rw [step_turn h]
  exact readTurn_ok ((accessOk_iff off 4).mpr ⟨rfl, ha⟩) _

/-- Settles O39: such an access is not `accessOk`, and both turns test that first. -/
theorem misformedHostAccessIsRefused : Obligations.MisformedHostAccessIsRefused := by
  intro s later off bytes v hform h
  obtain ⟨hw, hr⟩ := access_refused ((accessOk_eq_false_iff off bytes).mpr hform) v { s with turns := later }
  rcases h with h | h <;> rw [step_turn h]
  · exact hw
  · exact hr

/-! ### The window (R60, R70) -/

/-- Settles O40: an offset in the window has ten bits, so the address determines it and is determined by it. -/
theorem windowOffsetsAreBaseRelative : Obligations.WindowOffsetsAreBaseRelative := by
  intro c addr off
  have hlt : off.toNat < 1024 := off.isLt
  have hbase : c.base = 1024 * c.basePage := rfl
  rw [windowOffset, hbase]
  split
  case isTrue hin =>
    rw [Option.some.injEq, ← BitVec.toNat_inj, BitVec.toNat_ofNat, Nat.mod_eq_of_lt (by omega)]
    omega
  case isFalse hout =>
    simp only [reduceCtorEq, false_iff]
    omega

/-! ### What stops the machine (R67, R88) -/

/-- The engine always has a next state: while it is BUSY, PEND is not empty (R43). -/
theorem engineTurn_next {s : State} (h : s.Inv) : ∃ t, engineTurn s = .next t := by
  by_cases hb : s.eng = .busy
  · cases hp : s.pend with
    | nil => exact absurd (h.busy hb) (by simp [hp, closes])
    | cons a rest =>
      by_cases ha : ∃ p, a = .seq p
      · obtain ⟨p, rfl⟩ := ha
        rw [engineTurn_seq hb hp]
        exact runSeqHead_next p rest s
      · exact ⟨_, engineTurn_action hb hp (not_exists.mp ha)⟩
  · exact ⟨s, engineTurn_quiet hb⟩

/-- Settles O44: of the turns, only the two host accesses can be refused, and they are when their form is wrong. -/
theorem onlyMisformedAccessStopsTheMachine : Obligations.OnlyMisformedAccessStopsTheMachine := by
  intro s h
  have hturn : s.afterTurn.Inv := inv_of_engineView_eq (afterTurn_engineView s) h
  rw [step_eq]
  cases hn : s.nextTurn with
  | write off bytes v =>
    rcases writeTurn_cases off bytes v s.afterTurn with ⟨-, -, hw⟩ | ⟨-, -, hw⟩ | ⟨ha, hw⟩
    · obtain ⟨t, ht⟩ := exec_next (decodeCtrl v) s.afterTurn
      exact .inl ⟨t, hw.trans ht⟩
    · exact .inl ⟨_, hw⟩
    · exact .inr ⟨hw, off, bytes, (accessOk_eq_false_iff off bytes).mp ha, .inr ⟨v, rfl⟩⟩
  | read off bytes =>
    cases ha : accessOk off bytes with
    | true => exact .inl ⟨_, readTurn_ok ha s.afterTurn⟩
    | false =>
      obtain ⟨-, hr⟩ := access_refused ha 0#32 s.afterTurn
      exact .inr ⟨hr, off, bytes, (accessOk_eq_false_iff off bytes).mp ha, .inl rfl⟩
  | engine => exact .inl (engineTurn_next hturn)
  | tick => exact .inl ⟨_, rfl⟩
  | rstN => exact .inl ⟨_, rfl⟩

/-! ### SEQMEM and the parameters (R8, R62) -/

/-- No action writes SEQMEM, a parameter or the turns to come. -/
theorem perform_fixed (a : Action) (rest : List Action) (s : State) :
    (perform a rest s).seqmem = s.seqmem ∧ (perform a rest s).cfg = s.cfg ∧ (perform a rest s).turns = s.turns := by
  cases a with
  | ev e => simp [perform]
  | hold n => rw [perform_hold]; split <;> exact ⟨rfl, rfl, rfl⟩
  | _ => exact ⟨rfl, rfl, rfl⟩

/-- Settles O45: each of the ways `step_effect` gives keeps SEQMEM and the parameters, and `readReg` shows registers only. -/
theorem seqmemAndParametersNeverChange : Obligations.SeqmemAndParametersNeverChange := by
  refine ⟨fun s t hst => ?_, fun s m off => rfl⟩
  rcases step_effect hst with hv | ⟨-, f, hf, e, rfl⟩ | ⟨-, rfl⟩ | rfl | ⟨-, -, a, rest, -, -, rfl⟩ |
    ⟨-, -, p, rest, -, hr⟩
  · have hmem : t.engineView.seqmem = s.engineView.seqmem := congrArg State.seqmem hv
    have hcfg : t.engineView.cfg = s.engineView.cfg := congrArg State.cfg hv
    exact ⟨hmem, hcfg⟩
  · obtain ⟨-, hframe⟩ := acceptance_applyErrclr hf e s.afterTurn
    rw [hframe]
    exact ⟨rfl, rfl⟩
  · exact ⟨rfl, rfl⟩
  · simp
  · obtain ⟨hm, hc, -⟩ := perform_fixed a rest s.afterTurn
    exact ⟨hm, hc⟩
  · obtain ⟨st, ht, -⟩ := runSeqHead_writtenOut hr
    rw [ht]
    exact ⟨rfl, rfl⟩

/-! ### An operation runs to its end (R73, R112, R125)

With no turn placed, each step takes one from the count `stepsOf`: a tick one from the hold at the head of PEND, the engine
one for the action it performs, and a descriptor reached one for its setcur. -/

theorem stepsOf_cons (a : Action) (as : List Action) : stepsOf (a :: as) = actionSteps a + stepsOf as := rfl

/-- An action takes one step, but for a hold that is not over. -/
theorem actionSteps_eq_one {a : Action} (hover : ∀ n, a = .hold n → n = 0#8) : actionSteps a = 1 := by
  cases a with
  | hold n => rw [hover n rfl]; rfl
  | _ => rfl

/-- With no turn placed, a step is the block's own turn, and that is no reset (R112). -/
theorem step_own {s : State} (ht : s.turns = []) : step s = takeTurn (ownTurn s) s ∧ s.nextTurn ≠ .rstN := by
  refine ⟨by rw [step, ht], ?_⟩
  have hnext : s.nextTurn = if s.waiting then .tick else .engine := by rw [State.nextTurn, ht, ownTurn]
  rw [hnext]
  split <;> simp

/-- While a hold that is not over is at the head of PEND, the time base counts it down (R42). -/
theorem step_hold {s : State} (hb : s.eng = .busy) (ht : s.turns = []) {n : Byte} {rest : List Action}
    (hp : s.pend = .hold n :: rest) (hn : n ≠ 0#8) : step s = .next { s with pend := .hold (n - 1#8) :: rest } := by
  have hown : ownTurn s = .tick := by simp [ownTurn, State.waiting, State.dly, hb, hp, hn]
  rw [(step_own ht).1, hown, takeTurn, tickAction, hp]
  simp [hn]

/-- Any other action but a descriptor is the engine's to perform (R111). -/
theorem step_action {s : State} (hb : s.eng = .busy) (ht : s.turns = []) {a : Action} {rest : List Action}
    (hp : s.pend = a :: rest) (ha : ∀ p, a ≠ .seq p) (hover : ∀ n, a = .hold n → n = 0#8) :
    step s = .next (perform a rest s) := by
  have hdly : s.dly = 0#8 := by
    rw [State.dly, hp]
    cases a with
    | hold n => exact hover n rfl
    | _ => rfl
  have hown : ownTurn s = .engine := by simp [ownTurn, State.waiting, hdly]
  rw [(step_own ht).1, hown]
  exact engineTurn_action hb hp ha

/-- The action performed is the first of PEND, and what stands after it is left: nothing after a closing action (R43). -/
theorem perform_pendFull {s : State} (h : s.Inv) (hb : s.eng = .busy) {a : Action} {rest : List Action}
    (hp : s.pend = a :: rest) (ha : ∀ p, a ≠ .seq p) (hover : ∀ n, a = .hold n → n = 0#8) :
    s.pendFull = a :: (perform a rest s).pendFull := by
  have hc := h.busy hb
  rw [hp] at hc
  rw [pendFull_cons hp]
  rcases closes_cons hc with ⟨rfl, rfl | ⟨p, rfl⟩ | ⟨p, rfl⟩⟩ | ⟨hplain, -⟩
  · rfl
  · rfl
  · exact absurd rfl (ha p)
  · rw [writtenOut_of_plain _ _ hplain]
    cases a with
    | ev e => simp [perform, State.pendFull]
    | hold n => rw [hover n rfl]; rfl
    | setcur p => rfl
    | _ => exact nomatch hplain

/-- Reaching a descriptor writes it out, and its setcur is done (R111, R121). -/
theorem step_descriptor {s : State} (hb : s.eng = .busy) (ht : s.turns = []) {p : SeqPtr} {rest : List Action}
    (hp : s.pend = .seq p :: rest) :
    ∃ t, step s = .next t ∧ t.turns = [] ∧ s.pendFull = .setcur p :: t.pendFull := by
  obtain ⟨t, hr⟩ := runSeqHead_next p rest s
  obtain ⟨st, hst, hexp⟩ := runSeqHead_writtenOut hr
  have hstep : step s = runSeqHead p rest s := by rw [step_seq hb hp (.inr ⟨ht, rfl⟩), ← ht]
  exact ⟨t, hstep.trans hr, by rw [hst]; exact ht, (pendFull_cons hp).trans hexp⟩

/-- One step of a BUSY block with no turn placed is one of those that PEND takes. -/
theorem step_counts_down {s : State} (h : s.Inv) (hb : s.eng = .busy) (ht : s.turns = []) :
    ∃ t, step s = .next t ∧ t.turns = [] ∧ stepsOf s.pendFull = stepsOf t.pendFull + 1 := by
  cases hp : s.pend with
  | nil => exact absurd (h.busy hb) (by simp [hp, closes])
  | cons a rest =>
    by_cases ha : ∃ p, a = .seq p
    · obtain ⟨p, rfl⟩ := ha
      obtain ⟨t, hstep, hturns, hfull⟩ := step_descriptor hb ht hp
      refine ⟨t, hstep, hturns, ?_⟩
      rw [hfull, stepsOf_cons, actionSteps_eq_one (by simp), Nat.add_comm]
    by_cases hw : ∃ n, a = .hold n ∧ n ≠ 0#8
    · obtain ⟨n, rfl, hn⟩ := hw
      refine ⟨_, step_hold hb ht hp hn, ht, ?_⟩
      have hcount : n.toNat = (n - 1#8).toNat + 1 := by bv_omega
      rw [pendFull_cons hp, pendFull_cons rfl]
      simp only [writtenOut, List.singleton_append, stepsOf_cons, actionSteps]
      omega
    · have hne := not_exists.mp ha
      have hover : ∀ n, a = .hold n → n = 0#8 := fun n hn => not_not.mp fun h0 => hw ⟨n, hn, h0⟩
      obtain ⟨-, -, hturns⟩ := perform_fixed a rest s
      refine ⟨_, step_action hb ht hp hne hover, hturns.trans ht, ?_⟩
      rw [perform_pendFull h hb hp hne hover, stepsOf_cons, actionSteps_eq_one hover, Nat.add_comm]

/-- With no turn placed, the block comes to rest in as many steps as PEND takes, with every event of PEND in TR. -/
theorem run_stepsOf_pendFull {s : State} (h : s.Inv) (ht : s.turns = []) :
    ∃ t, Host.Core.run Sys2Proof.core (stepsOf s.pendFull) s = .next t ∧
      t.eng ≠ .busy ∧ t.pend = [] ∧ t.tr = s.finalTrace := by
  induction hk : stepsOf s.pendFull generalizing s with
  | zero =>
    have hq : s.eng ≠ .busy := fun hb => by
      obtain ⟨t, -, -, hcount⟩ := step_counts_down h hb ht
      omega
    obtain ⟨hpend, -⟩ := h.quiet hq
    exact ⟨s, rfl, hq, hpend, by simp [State.finalTrace, pendFull_quiet h hq, eventsOf]⟩
  | succ k ih =>
    have hb : s.eng = .busy := by
      by_contra hq
      rw [pendFull_quiet h hq] at hk
      exact nomatch hk
    obtain ⟨t, hst, ht', hcount⟩ := step_counts_down h hb ht
    have htrace : t.finalTrace = s.finalTrace := operationInFlightIsUndisturbed s t h hb (step_own ht).2 hst
    rw [run_next k hst, ← htrace]
    exact ih (stepKeepsInvariant s t h hst) ht' (by omega)

/-- Settles O53, by `run_stepsOf_pendFull`. -/
theorem operationRunsToItsEnd : Obligations.OperationRunsToItsEnd := fun _ h _ ht => run_stepsOf_pendFull h ht

end Sys2Proof.Machine

/-! PROOFS of the encoding family (spec/30_encoding.md): the bytes of a descriptor and the word of a CTRL write, each read
back as the instruction it was written from; then R80 and R87 as statements about the decoder. -/

namespace Sys2Proof.Machine

/-! ### The bytes of a descriptor (R83, R84, R87) -/

theorem descriptorOk_iff (opc : Byte) (args : List Byte) :
    descriptorOk opc args = true ↔ opc ≠ 0#8 ∧ args.length ≤ maxArgs := by
  simp [descriptorOk]

/-- A field of one bit. -/
theorem extractLsb'_one {w : Nat} (x : BitVec w) (k : Nat) : x.extractLsb' k 1 = BitVec.ofBool (x.getLsbD k) := by
  apply BitVec.eq_of_getLsbD_eq
  intro i hi
  obtain rfl := Nat.lt_one_iff.mp hi
  simp

/-- D and N are all of an argLenAndFlags byte (R83). -/
theorem lenFlagsByte_fields (lf : Byte) : lenFlagsByte (lenFlagsDelay lf) (lenFlagsCount lf) = lf := by
  rw [lenFlagsByte, lenFlagsDelay, lenFlagsCount, ← extractLsb'_one, BitVec.ofNat_toNat, BitVec.setWidth_eq]
  exact (BitVec.extractLsb'_append_extractLsb'_eq_extractLsb' (rfl : 7 = 0 + 7)).trans BitVec.extractLsb'_eq_self

/-- The bytes of a well-formed descriptor decode to it, whatever bytes follow. -/
theorem decodeDescriptor_encode {i : Instr} {bs : List Byte} (hi : i.wellFormed = true)
    (h : encode i = .descriptor bs) (rest : List Byte) : decodeDescriptor (bs ++ rest) = .accepted i rest := by
  cases i with
  | endSeq =>
    obtain rfl := Words.descriptor.inj h
    rfl
  | cmd opc args =>
    obtain rfl := Words.descriptor.inj h
    obtain ⟨hopc, hlen⟩ := (descriptorOk_iff opc args).mp hi
    exact (decodeDescriptor_body _ _ _ hopc).trans
      (decodeBody_cmd _ _ _ _ (lenFlagsDelay_byte _ _) (lenFlagsCount_byte _ _ hlen).symm)
  | cmdd opc args ms =>
    obtain rfl := Words.descriptor.inj h
    obtain ⟨hopc, hlen⟩ := (descriptorOk_iff opc args).mp hi
    rw [List.cons_append, List.cons_append, List.append_assoc]
    exact (decodeDescriptor_body _ _ _ hopc).trans
      (decodeBody_cmdd _ _ _ _ _ (lenFlagsDelay_byte _ _) (lenFlagsCount_byte _ _ hlen).symm)
  | _ => exact nomatch h

/-- Settles O4: `decodeDescriptor_cases` gives the bytes read, and their second is the one `encode` writes. -/
theorem descriptorTakesExactlyItsBytes : Obligations.DescriptorTakesExactlyItsBytes := by
  intro bs rest i h
  rcases decodeDescriptor_cases h with ⟨rfl, rfl⟩ | ⟨opc, lf, args, rfl, ho, hd, hl, rfl⟩ |
    ⟨opc, lf, args, ms, rfl, ho, hd, hl, rfl⟩
  · exact ⟨rfl, .inl rfl, rfl⟩
  · have hlf : lenFlagsByte false args.length = lf := by rw [← hd, hl, lenFlagsByte_fields]
    refine ⟨(descriptorOk_iff opc args).mpr ⟨ho, hl ▸ lenFlagsCount_le lf⟩, .inr rfl, ?_⟩
    simp [descriptorBytes, encode, hlf]
  · have hlf : lenFlagsByte true args.length = lf := by rw [← hd, hl, lenFlagsByte_fields]
    refine ⟨(descriptorOk_iff opc args).mpr ⟨ho, hl ▸ lenFlagsCount_le lf⟩, .inr rfl, ?_⟩
    simp [descriptorBytes, encode, hlf]

/-- Settles O5: past a nonzero opcode, `decodeBody` takes the N arguments and, with D = 1, the delay byte. -/
theorem decodingFollowsTheProcedure : Obligations.DecodingFollowsTheProcedure := by
  refine ⟨decodeDescriptor_end, fun opc lf ms args rest ho hl => ⟨fun hd => ?_, fun hd => ?_⟩⟩
  · rw [decodeDescriptor_body _ _ _ ho]
    exact decodeBody_cmd _ _ _ _ hd hl
  · rw [decodeDescriptor_body _ _ _ ho]
    exact decodeBody_cmdd _ _ _ _ _ hd hl

/-! ### The word of a CTRL write (R80, R81) -/

/-- SRST, ERRCLR, the reserved bits and OP are all of a CTRL word (R81). -/
theorem ctrlWord_fields {w : Word} (h : w.getLsbD 31 = false) :
    ctrlWord (w.getLsbD 30) (w.extractLsb' 4 26) (w.extractLsb' 0 4) = w := by
  have hsrst : 0#1 = w.extractLsb' 31 1 := by rw [extractLsb'_one, h]; rfl
  rw [ctrlWord, ← extractLsb'_one, hsrst,
    BitVec.extractLsb'_append_extractLsb'_eq_extractLsb' (rfl : 4 = 0 + 4),
    BitVec.extractLsb'_append_extractLsb'_eq_extractLsb' (rfl : 30 = 0 + (26 + 4))]
  exact (BitVec.extractLsb'_append_extractLsb'_eq_extractLsb' (rfl : 31 = 0 + 31)).trans BitVec.extractLsb'_eq_self

/-- A word with SRST = 1 is that bit and the 31 others (R81). -/
theorem srstWord_fields {w : Word} (h : w.getLsbD 31 = true) :
    (1#1 ++ w.extractLsb' 0 31 : BitVec (1 + 31)) = w := by
  have hsrst : 1#1 = w.extractLsb' 31 1 := by rw [extractLsb'_one, h]; rfl
  rw [hsrst]
  exact (BitVec.extractLsb'_append_extractLsb'_eq_extractLsb' (rfl : 31 = 0 + 31)).trans BitVec.extractLsb'_eq_self

/-- The three low bits of OP, which RESERVED_OP_8_15 leaves open, as bits of the word. -/
theorem ctrlWord_opLow (e : Bool) (x : BitVec 26) (op : BitVec 4) :
    (ctrlWord e x op).extractLsb' 0 3 = op.extractLsb' 0 3 := by
  rw [← BitVec.extractLsb'_extractLsb'_of_le (by decide : 0 + 3 ≤ 4), ctrlWord_op]

/-- OP 6 and 7 are 011 and one bit left open (R80). -/
theorem op_of_mem_six_seven : ∀ {op : BitVec 4}, op.toNat ∈ [6, 7] → ∃ r : BitVec 1, op = 3#3 ++ r := by decide

/-- OP 8 to 15 is 1 and three bits left open (R80). -/
theorem op_of_ge_eight : ∀ {op : BitVec 4}, 8 ≤ op.toNat → ∃ r : BitVec 3, op = 1#1 ++ r := by decide

theorem toNat_op_eight_add : ∀ r : BitVec 3, (1#1 ++ r : BitVec 4).toNat = r.toNat + 8 := by decide

/-- The rows of R80 cover OP. -/
theorem op_cases : ∀ op : BitVec 4,
    op = 0#4 ∨ op = 1#4 ∨ op = 2#4 ∨ op = 3#4 ∨ op = 4#4 ∨ op = 5#4 ∨ op.toNat ∈ [6, 7] ∨ 8 ≤ op.toNat := by decide

/-- SRST is read before all else (R22, R81). -/
theorem decodeCtrl_srst (x : BitVec 31) : decodeCtrl (1#1 ++ x : BitVec (1 + 31)) = .srst x := by
  have h31 : (1#1 ++ x : BitVec (1 + 31)).getLsbD 31 = true := BitVec.getLsbD_append
  have hx : (1#1 ++ x : BitVec (1 + 31)).extractLsb' 0 31 = x := BitVec.extractLsb'_append_eq_right
  exact (if_pos h31).trans (congrArg Instr.srst hx)

/-- The word of a well-formed CTRL write decodes to it. -/
theorem decodeCtrl_encode {i : Instr} {w : Word} (hi : i.wellFormed = true) (h : encode i = .ctrl w) :
    decodeCtrl w = i := by
  cases i with
  | endSeq => exact nomatch h
  | cmd opc args => exact nomatch h
  | cmdd opc args ms => exact nomatch h
  | srst x =>
    obtain rfl := Words.ctrl.inj h
    exact decodeCtrl_srst x
  | nop e x =>
    obtain rfl := Words.ctrl.inj h
    obtain rfl : e = false := by simpa [Instr.wellFormed] using hi
    simp only [decodeCtrl, ctrlWord_srst, ctrlWord_errclr, ctrlWord_reserved, ctrlWord_op]
    rfl
  | errclr x op =>
    obtain rfl := Words.ctrl.inj h
    obtain rfl : op = 0#4 := by simpa [Instr.wellFormed] using hi
    simp only [decodeCtrl, ctrlWord_srst, ctrlWord_errclr, ctrlWord_reserved, ctrlWord_op]
    rfl
  | reservedOp67 e x r =>
    obtain rfl := Words.ctrl.inj h
    simp only [decodeCtrl, ctrlWord_srst, ctrlWord_errclr, ctrlWord_reserved, ctrlWord_op]
    rcases BitVec.eq_zero_or_eq_one r with rfl | rfl <;> rfl
  | reservedOp815 e x r =>
    obtain rfl := Words.ctrl.inj h
    have hr : (1#1 ++ r : BitVec 4).extractLsb' 0 3 = r := BitVec.extractLsb'_append_eq_right
    simp only [decodeCtrl, ctrlWord_srst, ctrlWord_errclr, ctrlWord_reserved, ctrlWord_op, ctrlWord_opLow, hr,
      toNat_op_eight_add]
    rfl
  | _ =>
    obtain rfl := Words.ctrl.inj h
    simp only [decodeCtrl, ctrlWord_srst, ctrlWord_errclr, ctrlWord_reserved, ctrlWord_op]
    rfl

/-- Settles O2: the two languages, one lemma each. -/
theorem decodeOfEncodeGivesInstructionBack : Obligations.DecodeOfEncodeGivesInstructionBack := by
  intro i hi
  cases h : encode i with
  | ctrl w => exact .inl ⟨w, rfl, decodeCtrl_encode hi h⟩
  | descriptor bs => exact .inr ⟨bs, rfl, decodeDescriptor_encode hi h⟩

/-- The two rows that share OP = 0, as the decoder names them (notes/assumptions/8.md), write the word with that OP. -/
theorem encode_errclr_or_nop (e : Bool) (x : BitVec 26) :
    (if e then Instr.errclr x 0#4 else .nop false x).wellFormed = true ∧
    encode (if e then Instr.errclr x 0#4 else .nop false x) = .ctrl (ctrlWord e x 0#4) := by
  cases e <;> exact ⟨rfl, rfl⟩

/-- Every CTRL word is some well-formed instruction's (R80, R81). -/
theorem exists_encode_eq_ctrl (w : Word) : ∃ i : Instr, i.wellFormed = true ∧ encode i = .ctrl w := by
  cases h31 : w.getLsbD 31 with
  | true => exact ⟨.srst (w.extractLsb' 0 31), rfl, congrArg Words.ctrl (srstWord_fields h31)⟩
  | false =>
    rw [← ctrlWord_fields h31]
    rcases op_cases (w.extractLsb' 0 4) with h | h | h | h | h | h | h | h
    · rw [h]
      exact ⟨_, encode_errclr_or_nop _ _⟩
    · exact ⟨.sendCmd _ _, rfl, by rw [h]; rfl⟩
    · exact ⟨.runSeq _ _, rfl, by rw [h]; rfl⟩
    · exact ⟨.configure _ _, rfl, by rw [h]; rfl⟩
    · exact ⟨.setWindow _ _, rfl, by rw [h]; rfl⟩
    · exact ⟨.fill _ _, rfl, by rw [h]; rfl⟩
    · obtain ⟨r, hr⟩ := op_of_mem_six_seven h
      exact ⟨.reservedOp67 _ _ r, rfl, by rw [hr]; rfl⟩
    · obtain ⟨r, hr⟩ := op_of_ge_eight h
      exact ⟨.reservedOp815 _ _ r, rfl, by rw [hr]; rfl⟩

/-- Settles O3: some well-formed instruction has that word, and by `decodeCtrl_encode` it is the one decoded. -/
theorem everyCtrlWordHasItsOwnInstruction : Obligations.EveryCtrlWordHasItsOwnInstruction := by
  intro w
  obtain ⟨i, hi, hw⟩ := exists_encode_eq_ctrl w
  rw [decodeCtrl_encode hi hw]
  exact ⟨hi, hw⟩

/-- With SRST = 0, the word is that of the instruction its OP names, so it decodes to it. -/
theorem decodeCtrl_of_op {w : Word} (h31 : w.getLsbD 31 = false) {op : BitVec 4}
    (hop : w.extractLsb' 0 4 = op) {i : Instr} (hi : i.wellFormed = true)
    (henc : encode i = .ctrl (ctrlWord (w.getLsbD 30) (w.extractLsb' 4 26) op)) : decodeCtrl w = i := by
  subst hop
  exact decodeCtrl_encode hi (henc.trans (congrArg Words.ctrl (ctrlWord_fields h31)))

/-- Settles O6, by `decodeCtrl_of_op` with the OP of each row. -/
theorem opSelectsTheOperation : Obligations.OpSelectsTheOperation := by
  intro w
  refine ⟨fun h31 => ⟨_, decodeCtrl_encode rfl (congrArg Words.ctrl (srstWord_fields h31))⟩, fun h31 => ?_⟩
  have hop : ∀ {op : BitVec 4}, (w.extractLsb' 0 4).toNat = op.toNat → w.extractLsb' 0 4 = op :=
    BitVec.eq_of_toNat_eq
  refine ⟨fun h => ?_, fun h => ⟨_, decodeCtrl_of_op h31 (hop (op := 1#4) h) rfl rfl⟩,
    fun h => ⟨_, decodeCtrl_of_op h31 (hop (op := 2#4) h) rfl rfl⟩,
    fun h => ⟨_, decodeCtrl_of_op h31 (hop (op := 3#4) h) rfl rfl⟩,
    fun h => ⟨_, decodeCtrl_of_op h31 (hop (op := 4#4) h) rfl rfl⟩,
    fun h => ⟨_, decodeCtrl_of_op h31 (hop (op := 5#4) h) rfl rfl⟩, fun h => ?_, fun h => ?_⟩
  · obtain ⟨hwf, henc⟩ := encode_errclr_or_nop (w.getLsbD 30) (w.extractLsb' 4 26)
    exact ⟨_, decodeCtrl_of_op h31 (hop (op := 0#4) h) hwf henc⟩
  · obtain ⟨r, hr⟩ := op_of_mem_six_seven h
    exact ⟨_, r, decodeCtrl_of_op h31 hr rfl rfl⟩
  · obtain ⟨r, hr⟩ := op_of_ge_eight h
    exact ⟨_, r, decodeCtrl_of_op h31 hr rfl rfl⟩

/-- Settles O1: each word evaluated. -/
theorem sampleWordsDecode : Obligations.SampleWordsDecode :=
  ⟨by decide, by decide, by decide, by decide, by decide, by decide, by decide⟩

/-! ### The engine at a descriptor (R87, R121) -/

/-- The engine that reaches `p` runs what the bytes of SEQMEM from `p` on decode to, though it reads at most 130 of them. -/
theorem runSeqHead_accepted {s : State} {p : SeqPtr} {i : Instr} {r : List Byte} (rest : List Action)
    (h : decodeDescriptor (bytesFrom s.cfg s.seqmem p.toNat) = .accepted i r) :
    runSeqHead p rest s = exec i { s with sp := p, pend := rest } := by
  obtain ⟨r', hf⟩ := fetchDescriptor_accepted (s := { s with sp := p, pend := rest }) h
  simp only [runSeqHead, perform, hf]

/-- Settles O12, by `step_seq` and `runSeqHead_accepted`. -/
theorem stepRunsDescriptorAtPointer : Obligations.StepRunsDescriptorAtPointer := by
  intro s p rest later i r hb hp ht hd
  rw [step_seq hb hp ht]
  exact runSeqHead_accepted (s := { s with turns := later }) rest hd

end Sys2Proof.Machine

/-! PROOFS of the command engine family (spec/40_command_engine.md). First what one step does: the engine, the
descriptors, the starts. -/

namespace Sys2Proof.Machine

/-! ### FRAME (R100, R101) -/

/-- Settles O28: the actions are those of the bytes alone, and STAGE takes the bytes. -/
theorem frameCopiesToStageAndTransmits : Obligations.FrameCopiesToStageAndTransmits := by
  intro st opc args h
  refine ⟨frame_actions st (opc :: args) (Nat.succ_le_succ h) (List.cons_ne_nil _ _), fun i => ?_⟩
  simp [frame_stage, stageCopy]

/-! ### The engine step (R111) -/

/-- A placed engine turn performs the head of PEND, a descriptor apart. -/
theorem step_engine {s : State} {a : Action} {rest : List Action} {later : List Turn} (hb : s.eng = .busy)
    (ht : s.turns = .engine :: later) (hp : s.pend = a :: rest) (ha : ∀ p, a ≠ .seq p) :
    step s = .next (perform a rest { s with turns := later }) :=
  (step_turn ht).trans (engineTurn_action (s := { s with turns := later }) hb hp ha)

/-- Settles O29: `step_engine` with each head action; without BUSY, `engineTurn_quiet`. -/
theorem engineStepPerformsHead : Obligations.EngineStepPerformsHead := by
  refine ⟨fun s later rest hb ht => ?_, fun s later hb ht =>
    (step_turn ht).trans (engineTurn_quiet (s := { s with turns := later }) hb)⟩
  have act {a : Action} (hp : s.pend = a :: rest) (ha : ∀ p, a ≠ .seq p) := step_engine hb ht hp ha
  refine ⟨fun _ hp => act hp (by simp), fun _ hp => act hp (by simp), fun _ hp => act hp (by simp),
    fun _ hp => act hp (by simp), fun hp => act hp (by simp), fun n hn hp => ?_, fun _ hp => act hp (by simp),
    fun _ _ hp => act hp (by simp), fun hp => act hp (by simp)⟩
  rw [act hp (by simp), perform_hold, if_neg hn]

/-- What performing an action does to ENG: `done` and `fault` end the operation (R111, R183). -/
theorem perform_eng (a : Action) (rest : List Action) (s : State) :
    (perform a rest s).eng = s.eng ∨ (a = .done ∧ (perform a rest s).eng = .idle) ∨
      ∃ c p, a = .fault c p ∧ (perform a rest s).eng = .fault := by
  cases a with
  | ev e => exact .inl (by simp [perform])
  | hold n =>
    rw [perform_hold]
    split <;> exact .inl rfl
  | fault c p => exact .inr (.inr ⟨c, p, rfl, rfl⟩)
  | done => exact .inr (.inl ⟨rfl, rfl⟩)
  | _ => exact .inl rfl

/-- Settles O32: of the ways `step_effect` gives, only RST_N and the engine's `done` and `fault` take a BUSY engine
elsewhere. -/
theorem operationEndsOnlyByDoneFaultOrHardwareReset : Obligations.OperationEndsOnlyByDoneFaultOrHardwareReset := by
  intro s t hb hst hq
  rcases step_effect hst with hv | ⟨hi, -⟩ | ⟨hn, rfl⟩ | rfl | ⟨hn, -, a, rest, hp, -, rfl⟩ | ⟨-, -, p, rest, -, hr⟩
  · have heng : t.engineView.eng = s.engineView.eng := congrArg State.eng hv
    exact absurd (heng.trans hb) hq
  · simp [hb] at hi
  · exact .inr (.inr ⟨hn.resolve_right (absurd hb), rfl⟩)
  · exact absurd (by simpa using hb) hq
  · rcases perform_eng a rest s.afterTurn with he | ⟨rfl, he⟩ | ⟨c, p, rfl, he⟩
    · exact absurd (he.trans hb) hq
    · exact .inl ⟨hn, he, rest, hp⟩
    · exact .inr (.inl ⟨hn, he, c, p, rest, hp⟩)
  · obtain ⟨st, ht, -⟩ := runSeqHead_writtenOut hr
    exact absurd (by rw [ht]; exact hb) hq

/-- An event other than RST comes into TR only as the engine emits it from the head of PEND (R44, R111). -/
theorem step_emits {s t : State} {e : Event} (hst : step s = .next t) (he : e ≠ .rst) (htr : t.tr = s.tr ++ [e]) :
    s.eng = .busy ∧ ∃ rest, s.pend = .ev e :: rest ∧ t = emit e { s.afterTurn with pend := rest } := by
  have quiet : t.tr ≠ s.tr := by simp [htr]
  rcases step_effect hst with hv | ⟨-, f, hf, e', rfl⟩ | ⟨-, rfl⟩ | rfl | ⟨-, hb, a, rest, hp, -, rfl⟩ |
    ⟨-, -, p, rest, -, hr⟩
  · have hsame : t.engineView.tr = s.engineView.tr := congrArg State.tr hv
    exact absurd hsame quiet
  · obtain ⟨-, hframe⟩ := acceptance_applyErrclr hf e' s.afterTurn
    exact absurd (by rw [hframe]; rfl) quiet
  · exact absurd (by simpa using htr) he.symm
  · exact absurd (by simp) quiet
  · cases a with
    | ev e' =>
      obtain rfl : e' = e := by simpa [perform] using htr
      exact ⟨hb, rest, hp, rfl⟩
    | hold n =>
      rw [perform_hold] at quiet
      split at quiet <;> exact absurd rfl quiet
    | _ => exact absurd rfl quiet
  · obtain ⟨st, ht, -⟩ := runSeqHead_writtenOut hr
    exact absurd (by rw [ht]; rfl) quiet

/-- Settles O42: such an event was at the head of PEND, which closes as the lines stand. -/
theorem bytesInsideWaitsOutsideChipSelect : Obligations.BytesInsideWaitsOutsideChipSelect := by
  intro s t h hst
  refine ⟨fun b htr => ?_, fun n htr => ?_⟩
  all_goals
    obtain ⟨hb, rest, hp, rfl⟩ := step_emits hst (by simp) htr
    have hc := h.busy hb
    rw [hp] at hc
    have hcs := eq_of_beq (Bool.and_eq_true_iff.mp hc).1
    exact ⟨hcs, hcs⟩

/-! ### The descriptors (R121 to R124, R182) -/

/-- Where the bytes of SEQMEM from `p` on hold no descriptor, the engine that reaches `p` raises SEQ_OVERRUN (R182). -/
theorem runSeqHead_rejected {s : State} {p : SeqPtr} {e : DecodeError} (rest : List Action)
    (h : decodeDescriptor (bytesFrom s.cfg s.seqmem p.toNat) = .rejected e) :
    runSeqHead p rest s = .next { s with sp := p, seqCur := p, pend := .fault seqOverrun p :: rest } := by
  obtain ⟨e', he⟩ := fetchDescriptor_rejected (s := { s with sp := p, pend := rest }) h
  simp only [runSeqHead, perform, he]
  rfl

/-- Each case of R182 leaves the decoder short of a byte. -/
theorem decodeDescriptor_overrun {c : Params} {m : Memory} {p : Nat}
    (h : p ≥ c.seqBytes ∨ m.read p ≠ 0#8 ∧ (p + 1 ≥ c.seqBytes ∨
      p + 2 + lenFlagsCount (m.read (p + 1)) + (if lenFlagsDelay (m.read (p + 1)) then 1 else 0) > c.seqBytes)) :
    ∃ e, decodeDescriptor (bytesFrom c m p) = .rejected e := by
  by_cases h0 : c.seqBytes ≤ p
  · exact ⟨_, by rw [bytesFrom_past h0, decodeDescriptor_nil]⟩
  obtain ⟨hopc, h⟩ := h.resolve_left h0
  rw [bytesFrom_cons (not_le.mp h0)]
  by_cases h1 : c.seqBytes ≤ p + 1
  · exact ⟨.lenFlagsOutside, by rw [bytesFrom_past h1]; simp [decodeDescriptor, hopc]⟩
  · rw [bytesFrom_cons (not_le.mp h1), decodeDescriptor_body _ _ _ hopc]
    have hlong := h.resolve_left h1
    exact ⟨_, decodeBody_short (by rw [bytesFrom_length]; omega)⟩

/-- D as a number (R83). -/
theorem lenFlags_extractLsb'_delay (lf : Byte) :
    (lf.extractLsb' 7 1).toNat = if lenFlagsDelay lf then 1 else 0 := by
  rw [extractLsb'_one, lenFlagsDelay]
  cases lf.getLsbD 7 <;> rfl

/-- Settles O13: the three cases of R182 are those of `decodeDescriptor_overrun`. -/
theorem descriptorOutsideSeqmemRaisesOverrun : Obligations.DescriptorOutsideSeqmemRaisesOverrun := by
  intro s p rest later hb hp ht h
  obtain ⟨e, he⟩ := decodeDescriptor_overrun (c := s.cfg) (m := s.seqmem) (p := p.toNat)
    (by simpa only [and_or_left, lenFlagsCount, lenFlags_extractLsb'_delay] using h)
  rw [step_seq hb hp ht]
  exact runSeqHead_rejected (s := { s with turns := later }) rest he

/-- A descriptor of `len` bytes frames its command and leads to the one after it, or does not fit (R121). -/
theorem runDescriptor_effect (len : Nat) (opc : Byte) {args : List Byte} (tail : List Action) (s : State)
    (hargs : args.length ≤ 127) :
    (s.sp.toNat + len ≤ s.cfg.seqBytes → ∃ (st : Buffer) (q : SeqPtr), q.toNat = s.sp.toNat + len ∧
      runDescriptor len (opc :: args) tail s =
        { s with seqCur := s.sp, stage := st, pend := frameActions (opc :: args) ++ tail ++ .seq q :: s.pend }) ∧
    (s.sp.toNat + len > s.cfg.seqBytes →
      runDescriptor len (opc :: args) tail s =
        { s with seqCur := s.sp, pend := .fault seqOverrun s.sp :: s.pend }) := by
  refine ⟨fun hfit => ⟨stageCopy s.stage (opc :: args), _, nextPointer_toNat hfit, ?_⟩,
    fun hover => runDescriptor_overrun hover⟩
  rw [runDescriptor_fits hfit, frame_actions s.stage (opc :: args) (Nat.succ_le_succ hargs) (List.cons_ne_nil _ _)]
  rfl

/-- Settles O14: `runDescriptor_effect` with a length of 2 + N. -/
theorem cmdDescriptorEffect : Obligations.CmdDescriptorEffect := by
  intro opc args s hargs
  obtain ⟨hfit, hover⟩ := runDescriptor_effect (2 + args.length) opc [] s hargs
  rw [← Nat.add_assoc] at hfit hover
  refine ⟨fun h => ?_, fun h => congrArg Host.Outcome.next (hover h)⟩
  obtain ⟨st, q, hq, heq⟩ := hfit h
  refine ⟨st, q, hq, (congrArg Host.Outcome.next heq).trans ?_⟩
  simp [frameActions]

/-- Settles O15: `runDescriptor_effect` with a length of 3 + N and the wait after the frame. -/
theorem cmddDescriptorEffect : Obligations.CmddDescriptorEffect := by
  intro opc args ms s hargs
  obtain ⟨hfit, hover⟩ := runDescriptor_effect (3 + args.length) opc [.ev (.wait ms), .hold ms] s hargs
  rw [← Nat.add_assoc] at hfit hover
  refine ⟨fun h => ?_, fun h => congrArg Host.Outcome.next (hover h)⟩
  obtain ⟨st, q, hq, heq⟩ := hfit h
  refine ⟨st, q, hq, (congrArg Host.Outcome.next heq).trans ?_⟩
  simp [frameActions]

/-- Settles O16: the meaning of END, evaluated. -/
theorem endDescriptorEffect : Obligations.EndDescriptorEffect := fun _ => rfl

/-! ### The host operations (R110, R113, R114, R160, R186) -/

/-- Settles O17: NOP is ERRCLR alone. -/
theorem nopEffect : Obligations.NopEffect := fun e _ s => congrArg Host.Outcome.next (applyErrclr_eq e s)

/-- A start while BUSY or FAULT is refused, after its ERRCLR (R186, R189). -/
theorem startWhenIdle_refused (f : State → State) (e : Bool) {s : State} (h : s.eng ≠ .idle) :
    startWhenIdle f (applyErrclr e s) = { s with reject := true, badop := !e && s.badop } := by
  rw [startWhenIdle, if_neg (by simpa using h), applyErrclr_eq]
  rfl

/-- Settles O19: every start is `startWhenIdle`. -/
theorem startWhileNotIdleIsRefused : Obligations.StartWhileNotIdleIsRefused := by
  intro e x s h i hi
  obtain ⟨h₁, h₂, h₃, h₄, h₅⟩ := exec_starts e x s
  simp only [List.mem_cons, List.not_mem_nil, or_false] at hi
  rcases hi with rfl | rfl | rfl | rfl | rfl
  · rw [h₁, startWhenIdle_refused _ _ h]
  · rw [h₂, startWhenIdle_refused _ _ h]
  · rw [h₃, startWhenIdle_refused _ _ h]
  · rw [h₄, startWhenIdle_refused _ _ h]
  · rw [h₅, startWhenIdle_refused _ _ h]

/-- Settles O20: the actions of the frame depend on its bytes alone. -/
theorem sendCmdStart : Obligations.SendCmdStart := by
  intro e x s hi
  obtain ⟨h, -⟩ := exec_starts_idle e x hi
  refine ⟨stageCopy s.stage (sendCmdBytes s), ?_⟩
  rw [h, applyErrclr_eq, acceptSendCmd,
    accept_eq _ _ _ (frame_actions _ _ (sendCmdBytes_le _) (by simp [sendCmdBytes]))]
  simp [frame_stage, frameActions, sendCmdBytes, State.cmdOpcode, State.cmdArglen]

/-- FILL sends two bytes for each pixel of the window, in either order (R160, R164). -/
theorem pixelBytes_length (o : FillOrder) (w h : Nat) : (pixelBytes o w h).length = 2 * w * h := by
  cases o <;> simp [pixelBytes, bytes16, List.length_flatMap] <;> ring

/-- Settles O24: the data bytes are `fillBytes`. -/
theorem fillStart : Obligations.FillStart := by
  intro e x s hi
  obtain ⟨-, -, -, -, h⟩ := exec_starts_idle e x hi
  refine ⟨fillBytes s, pixelBytes_length _ _ _, ?_⟩
  rw [h, applyErrclr_eq, acceptFill, accept_eq _ _ _ rfl]
  simp [fillBytes]

end Sys2Proof.Machine

/-! PROOFS of the command engine family: runs of one operation, with no further turn placed. The engine emits the events
of PEND one a step; an accepted start is then a run of known length, and the invariant gives the lines it leaves. -/

namespace Sys2Proof.Machine

/-! ### Runs -/

/-- A run of `k + 1` steps is a step and a run of `k`. -/
theorem run_succ_cases {k : Nat} {s t : State} (h : Host.Core.run Sys2Proof.core (k + 1) s = .next t) :
    ∃ u, step s = .next u ∧ Host.Core.run Sys2Proof.core k u = .next t := by
  have hm := (core_run_succ Sys2Proof.core k s).symm.trans h
  split at hm
  next u hst => exact ⟨u, hst, hm⟩
  all_goals exact nomatch hm

/-- A run goes on from where its first steps lead. -/
theorem run_add {j : Nat} {s t : State} (k : Nat) (h : Host.Core.run Sys2Proof.core j s = .next t) :
    Host.Core.run Sys2Proof.core (j + k) s = Host.Core.run Sys2Proof.core k t := by
  induction j generalizing s with
  | zero =>
    obtain rfl := Host.Outcome.next.inj h
    rw [Nat.zero_add]
  | succ j ih =>
    obtain ⟨u, hst, hu⟩ := run_succ_cases h
    rw [Nat.add_right_comm, run_next _ hst, ih hu]

/-- A run keeps the invariant. -/
theorem run_inv {k : Nat} {s t : State} (h : s.Inv) (hrun : Host.Core.run Sys2Proof.core k s = .next t) : t.Inv := by
  induction k generalizing s with
  | zero => exact Host.Outcome.next.inj hrun ▸ h
  | succ k ih =>
    obtain ⟨u, hst, hu⟩ := run_succ_cases hrun
    exact ih (stepKeepsInvariant s u h hst) hu

/-- The engine emits the events at the front of PEND, one a step, in order (R111). -/
theorem run_events (es : List Event) {rest : List Action} {s : State} (hb : s.eng = .busy) (ht : s.turns = [])
    (hp : s.pend = es.map Action.ev ++ rest) : ∃ cs dc, Host.Core.run Sys2Proof.core es.length s =
      .next { s with pend := rest, tr := s.tr ++ es, csN := cs, dc := dc } := by
  induction es generalizing s with
  | nil => exact ⟨s.csN, s.dc, by rw [List.append_nil, ← show s.pend = rest from hp]; rfl⟩
  | cons e es ih =>
    have hst := step_action hb ht hp (by simp) (by simp)
    obtain ⟨cs, dc, hrun⟩ := ih (s := emit e { s with pend := es.map Action.ev ++ rest }) (by simpa using hb)
      (by simpa using ht) (by simp)
    exact ⟨cs, dc, (run_next _ hst).trans (hrun.trans (by simp))⟩

/-- An operation of events alone leaves them in TR, ENG IDLE and both lines high, and changes nothing else (R43, R102,
R112). -/
theorem run_operation (es : List Event) {s : State} (h : s.Inv) (hb : s.eng = .busy) (ht : s.turns = [])
    (hp : s.pend = es.map Action.ev ++ [Action.done]) : Host.Core.run Sys2Proof.core (es.length + 1) s =
      .next { s with eng := .idle, pend := [], tr := s.tr ++ es, csN := .high, dc := .high } := by
  obtain ⟨cs, dc, hrun⟩ := run_events es hb ht hp
  have hdone := step_action (s := { s with pend := [.done], tr := s.tr ++ es, csN := cs, dc := dc }) (a := .done)
    (rest := []) hb ht rfl (by simp) (by simp)
  have hall : Host.Core.run Sys2Proof.core (es.length + 1) s =
      .next { s with eng := .idle, pend := [], tr := s.tr ++ es, csN := cs, dc := dc } :=
    (run_add 1 hrun).trans (run_next 0 hdone)
  obtain ⟨-, rfl, rfl⟩ := (run_inv h hall).quiet (by simp)
  exact hall

/-- With a CTRL write as the one turn left, the step runs it and leaves no turn. -/
theorem step_lastWrite {s : State} {v : Word} (ht : s.turns = [.write 0x000#10 4 v]) :
    step s = exec (decodeCtrl v) s.afterTurn ∧ s.afterTurn.turns = [] := by
  have hlater : s.laterTurns = [] := by rw [State.laterTurns, ht, List.tail_cons]
  exact ⟨by rw [step_ctrlWrite ht, State.afterTurn, hlater], hlater⟩

/-- A whole operation: the CTRL write whose start is accepted, the events, and `done`. -/
theorem run_accepted {f : State → State} (hf : f ∈ acceptances) (es : List Event) {s : State} {v : Word} {e : Bool}
    (h : s.Inv) (hi : s.eng = .idle) (ht : s.turns = [.write 0x000#10 4 v])
    (hexec : exec (decodeCtrl v) s.afterTurn = .next (f (applyErrclr e s.afterTurn)))
    (hpend : (f (applyErrclr e s.afterTurn)).pend = es.map Action.ev ++ [Action.done])
    (hsp : (f (applyErrclr e s.afterTurn)).sp = s.sp) :
    Host.Core.run Sys2Proof.core (es.length + 2) s = .next
      { s with
        turns := [], reject := !e && s.reject, badop := !e && s.badop,
        stage := (f (applyErrclr e s.afterTurn)).stage, tr := s.tr ++ es } := by
  obtain ⟨hrun, hturns⟩ := step_lastWrite ht
  have hst := hrun.trans hexec
  have hu := stepKeepsInvariant _ _ h hst
  obtain ⟨hb, -⟩ := acceptance_closes hf (applyErrclr e s.afterTurn)
  obtain ⟨-, hframe⟩ := acceptance_applyErrclr hf e s.afterTurn
  generalize f (applyErrclr e s.afterTurn) = u at *
  rw [run_next _ hst, run_operation es hu hb (by rw [hframe]; exact hturns) hpend]
  obtain ⟨hnil, hcs, hdc⟩ := h.quiet (by simp [hi])
  rw [hframe]
  simp [hi, hnil, hcs, hdc, hsp, show s.laterTurns = [] from hturns]

/-! ### The events of a frame -/

theorem eventsOf_map_ev (es : List Event) : eventsOf (es.map Action.ev) = es := by
  induction es with
  | nil => rfl
  | cons e es ih => exact congrArg (e :: ·) ih

theorem frameActions_cons (opc : Byte) (args : List Byte) :
    frameActions (opc :: args) =
      ([Event.cs .low, Event.dc .low, Event.tx opc, Event.dc .high] ++ args.map Event.tx ++
        [Event.cs .high]).map Action.ev := by
  simp [frameActions]

theorem frameEvents_cons (opc : Byte) (args : List Byte) :
    frameEvents (opc :: args) =
      [Event.cs .low, Event.dc .low, Event.tx opc, Event.dc .high] ++ args.map Event.tx ++ [Event.cs .high] := by
  rw [frameEvents, frameActions_cons, eventsOf_map_ev]

/-- A frame's actions are events alone. -/
theorem frameActions_eq_map {bs : List Byte} (h : bs ≠ []) : frameActions bs = (frameEvents bs).map Action.ev := by
  obtain ⟨opc, args, rfl⟩ := List.exists_cons_of_ne_nil h
  rw [frameEvents_cons, frameActions_cons]

/-- A frame of `n` bytes is `n + 4` events (R100). -/
theorem frameEvents_length {bs : List Byte} (h : bs ≠ []) : (frameEvents bs).length = bs.length + 4 := by
  obtain ⟨opc, args, rfl⟩ := List.exists_cons_of_ne_nil h
  simp [frameEvents_cons]

/-! ### Whole operations (R112) -/

/-- Settles O56: one frame, by `run_accepted`. -/
theorem sendCmdWholeRun : Obligations.SendCmdWholeRun := by
  intro s v e x h hi ht hd
  obtain ⟨hexec, -⟩ := exec_starts_idle e x (s := s.afterTurn) hi
  have hpend : (acceptSendCmd (applyErrclr e s.afterTurn)).pend =
      (frameEvents (sendCmdBytes s)).map Action.ev ++ [Action.done] := by
    rw [acceptSendCmd_pend, frameActions_eq_map (by simp [sendCmdBytes])]
    simp [sendCmdBytes, State.cmdOpcode, State.cmdArglen]
  have hrun := run_accepted (f := acceptSendCmd) (by simp [acceptances]) _ h hi ht (hd ▸ hexec) hpend
    (by simp [acceptSendCmd])
  rw [frameEvents_length (by simp [sendCmdBytes]), sendCmdBytes_length, sendCmdBytes, frameEvents_cons] at hrun
  exact ⟨_, by simpa [State.cmdOpcode] using hrun⟩

/-- FRMFRAME(F) as one list (R64 (c), R141). -/
theorem frmctrBytes_eq (s : State) :
    frmctrBytes s = s.cfg.opcFrmctr1 :: s.frmctr.extractLsb' 16 8 :: s.frmctr.extractLsb' 8 8 ::
      (if s.frmctr.extractLsb' 0 8 = 0xFF#8 then [] else [s.frmctr.extractLsb' 0 8]) := by
  unfold frmctrBytes
  simp only
  split <;> rfl

/-- Settles O57: two frames, by `run_accepted`. -/
theorem configureWholeRun : Obligations.ConfigureWholeRun := by
  intro s v e x h hi ht hd
  obtain ⟨-, -, hexec, -⟩ := exec_starts_idle e x (s := s.afterTurn) hi
  have hpend : (acceptConfigure (applyErrclr e s.afterTurn)).pend =
      (frameEvents (madctlBytes s) ++ frameEvents (frmctrBytes s)).map Action.ev ++ [Action.done] := by
    rw [acceptConfigure_pend, frameActions_eq_map (by simp [madctlBytes]), frameActions_eq_map (frmctrBytes_ne_nil _)]
    simp [madctlBytes, frmctrBytes]
  have hrun := run_accepted (f := acceptConfigure) (by simp [acceptances]) _ h hi ht (hd ▸ hexec) hpend
    (by simp [acceptConfigure])
  rw [madctlBytes, frmctrBytes_eq, frameEvents_cons, frameEvents_cons] at hrun
  exact ⟨_, _, by simpa [apply_ite (List.map Event.tx)] using hrun⟩

/-- The inclusive end of an axis as a number (R143). -/
theorem windowEnd_toNat (start extent : BitVec 16) :
    (windowEnd start extent).toNat = (start.toNat + extent.toNat + 65535) % 65536 := by
  rw [windowEnd]
  bv_omega

/-- Settles O58: two frames of five bytes, by `run_accepted`. -/
theorem setWindowWholeRun : Obligations.SetWindowWholeRun := by
  intro s v e x h hi ht hd
  obtain ⟨-, -, -, hexec, -⟩ := exec_starts_idle e x (s := s.afterTurn) hi
  have hpend : (acceptSetWindow (applyErrclr e s.afterTurn)).pend =
      (frameEvents (rowsetBytes s) ++ frameEvents (colsetBytes s)).map Action.ev ++ [Action.done] := by
    rw [acceptSetWindow_pend, frameActions_eq_map (by simp [rowsetBytes]),
      frameActions_eq_map (by simp [colsetBytes])]
    simp [rowsetBytes, colsetBytes]
  have hrun := run_accepted (f := acceptSetWindow) (by simp [acceptances]) _ h hi ht (hd ▸ hexec) hpend
    (by simp [acceptSetWindow])
  rw [rowsetBytes, colsetBytes, frameEvents_cons, frameEvents_cons] at hrun
  exact ⟨_, _, _, windowEnd_toNat s.winX s.winW, windowEnd_toNat s.winY s.winH, by simpa [bytes16] using hrun⟩

/-- Settles O59: the opcode and the data bytes of one window, by `run_accepted`. -/
theorem fillWholeRun : Obligations.FillWholeRun := by
  intro s v e x h hi ht hd
  obtain ⟨-, -, -, -, hexec⟩ := exec_starts_idle e x (s := s.afterTurn) hi
  have hpend : (acceptFill (applyErrclr e s.afterTurn)).pend =
      ([Event.cs .low, Event.dc .low, Event.tx s.cfg.opcRamwr, Event.dc .high] ++ (fillBytes s).map Event.tx ++
        [Event.cs .high]).map Action.ev ++ [Action.done] := by
    simp [acceptFill_pend, fillBytes]
  have hrun := run_accepted (f := acceptFill) (by simp [acceptances]) _ h hi ht (hd ▸ hexec) hpend
    (by simp [acceptFill])
  have hlen : (fillBytes s).length = 2 * s.winW.toNat * s.winH.toNat := pixelBytes_length _ _ _
  exact ⟨hlen, by simpa [acceptFill, hlen] using hrun⟩

end Sys2Proof.Machine

/-! PROOFS of the command engine family: whole sequences (R120 to R126). With no further turn placed the engine walks
from descriptor to descriptor; at the sentinel it ends, and at a descriptor that does not fit it faults. -/

namespace Sys2Proof.Machine

/-! ### Walking through a sequence -/

/-- Some run leads from `s` to `t`. -/
def State.Reaches (s t : State) : Prop := ∃ k, Host.Core.run Sys2Proof.core k s = .next t

theorem State.Reaches.refl (s : State) : s.Reaches s := ⟨0, rfl⟩

theorem State.Reaches.trans {s t u : State} (h : s.Reaches t) (h' : t.Reaches u) : s.Reaches u := by
  obtain ⟨j, hj⟩ := h
  obtain ⟨k, hk⟩ := h'
  exact ⟨j + k, (run_add k hj).trans hk⟩

theorem reaches_step {s t u : State} (hst : step s = .next t) (h : t.Reaches u) : s.Reaches u := by
  obtain ⟨k, hk⟩ := h
  exact ⟨k + 1, (run_next k hst).trans hk⟩

/-- The engine has arrived at the descriptor at `p` of a running sequence, and no turn is placed. -/
structure State.AtDescriptor (s : State) (p : SeqPtr) : Prop where
  busy : s.eng = .busy
  alone : s.turns = []
  pend : s.pend = [.seq p]

/-- Some run from `s` arrives at the descriptor at offset `a`, with `es` added to TR and SEQMEM and the parameters as
they were. -/
def State.ArrivesAt (s : State) (a : Nat) (es : List Event) : Prop :=
  ∃ (t : State) (p : SeqPtr), s.Reaches t ∧ t.AtDescriptor p ∧ p.toNat = a ∧ t.cfg = s.cfg ∧ t.seqmem = s.seqmem ∧
    t.tr = s.tr ++ es

theorem State.ArrivesAt.trans {s : State} {a b : Nat} {es fs : List Event} (h : s.ArrivesAt a es)
    (h' : ∀ (t : State) (p : SeqPtr), t.AtDescriptor p → p.toNat = a → t.cfg = s.cfg → t.seqmem = s.seqmem →
      t.ArrivesAt b fs) : s.ArrivesAt b (es ++ fs) := by
  obtain ⟨t, p, hst, hat, hp, hc, hm, htr⟩ := h
  obtain ⟨u, q, htu, hat', hq, hc', hm', htr'⟩ := h' t p hat hp hc hm
  exact ⟨u, q, hst.trans htu, hat', hq, hc'.trans hc, hm'.trans hm, by rw [htr', htr, List.append_assoc]⟩

/-- A hold at the head of PEND passes, one tick for each count (R42). -/
theorem reaches_hold {s : State} {n : Byte} {rest : List Action} (hb : s.eng = .busy) (ht : s.turns = [])
    (hp : s.pend = .hold n :: rest) : s.Reaches { s with pend := rest } := by
  induction hn : n.toNat generalizing s n with
  | zero =>
    obtain rfl : n = 0#8 := BitVec.eq_of_toNat_eq hn
    exact reaches_step (step_action hb ht hp (by simp) (by simp)) (.refl _)
  | succ k ih =>
    have hne : n ≠ 0#8 := by rintro rfl; exact nomatch hn
    exact reaches_step (step_hold hb ht hp hne) (ih (n := n - 1#8) hb ht rfl (by bv_omega))

/-- Reaching a descriptor with no turn placed (R121). -/
theorem State.AtDescriptor.step_eq {s : State} {p : SeqPtr} (h : s.AtDescriptor p) : step s = runSeqHead p [] s := by
  rw [step_seq h.busy h.pend (.inr ⟨h.alone, rfl⟩), ← h.alone]

/-- A CMD or CMDD: the engine emits its events and arrives at the next descriptor (R122, R123). -/
theorem State.AtDescriptor.command {s : State} {p : SeqPtr} {d : Instr} {r : List Byte} (h : s.AtDescriptor p)
    (hc : isCommand d = true) (hd : decodeDescriptor (bytesFrom s.cfg s.seqmem p.toNat) = .accepted d r) :
    s.ArrivesAt (p.toNat + (descriptorBytes d).length) (descriptorEvents d) := by
  rcases runSeqHead_result p [] s with ⟨hd', -⟩ | ⟨opc, args, q, r', -, hd', hq, -, hr⟩ |
    ⟨opc, args, ms, q, r', -, hd', hq, -, hr⟩ | ⟨e, hd', -⟩
  · obtain ⟨rfl, -⟩ := Decoded.accepted.inj (hd.symm.trans hd')
    exact nomatch hc
  · obtain ⟨rfl, -⟩ := Decoded.accepted.inj (hd.symm.trans hd')
    obtain ⟨cs, dc, hrun⟩ := run_events (frameEvents (opc :: args)) (rest := [.seq q])
      (s := { s with
        sp := p, seqCur := p, stage := stageCopy s.stage (opc :: args)
        pend := frameActions (opc :: args) ++ [.seq q] })
      h.busy h.alone (by rw [frameActions_eq_map (List.cons_ne_nil opc args)])
    have hlen : (descriptorBytes (.cmd opc args)).length = 2 + args.length := by
      simp [descriptorBytes, encode]
      omega
    exact ⟨_, q, reaches_step (h.step_eq.trans hr) ⟨_, hrun⟩, ⟨h.busy, h.alone, rfl⟩, hlen ▸ hq, rfl, rfl, rfl⟩
  · obtain ⟨rfl, -⟩ := Decoded.accepted.inj (hd.symm.trans hd')
    obtain ⟨cs, dc, hrun⟩ := run_events (frameEvents (opc :: args) ++ [.wait ms]) (rest := [.hold ms, .seq q])
      (s := { s with
        sp := p, seqCur := p, stage := stageCopy s.stage (opc :: args)
        pend := frameActions (opc :: args) ++ [.ev (.wait ms), .hold ms] ++ [.seq q] })
      h.busy h.alone (by simp [frameActions_eq_map (List.cons_ne_nil opc args)])
    have hlen : (descriptorBytes (.cmdd opc args ms)).length = 3 + args.length := by
      simp [descriptorBytes, encode]
      omega
    exact ⟨_, q, reaches_step (h.step_eq.trans hr) (.trans ⟨_, hrun⟩ (reaches_hold h.busy h.alone rfl)),
      ⟨h.busy, h.alone, rfl⟩, hlen ▸ hq, rfl, rfl, rfl⟩
  · exact nomatch hd.symm.trans hd'

/-! ### The bytes of a sequence (R82) -/

theorem bytesFrom_drop (c : Params) (m : Memory) (p n : Nat) : (bytesFrom c m p).drop n = bytesFrom c m (p + n) := by
  by_cases h : n ≤ c.seqBytes - p
  · rw [bytesFrom, Memory.readBytes_drop _ _ _ _ h, Nat.sub_sub, bytesFrom]
  · rw [bytesFrom_past (p := p + n) (by omega), List.drop_of_length_le (by rw [bytesFrom_length]; omega)]

/-- SEQMEM past some bytes that lie at `p`. -/
theorem bytesFrom_past_prefix {c : Params} {m : Memory} {p : Nat} {bs more : List Byte}
    (h : bytesFrom c m p = bs ++ more) : bytesFrom c m (p + bs.length) = more := by
  rw [← bytesFrom_drop, h, List.drop_left]

theorem decodeDescriptor_descriptorBytes {d : Instr} (hc : isCommand d = true) (hwf : d.wellFormed = true)
    (more : List Byte) : decodeDescriptor (descriptorBytes d ++ more) = .accepted d more := by
  cases d with
  | cmd opc args => exact decodeDescriptor_encode hwf rfl more
  | cmdd opc args ms => exact decodeDescriptor_encode hwf rfl more
  | _ => exact nomatch hc

/-- Descriptors that lie back to back: the engine emits the events of each, in order, and arrives past the last. -/
theorem State.AtDescriptor.sequence {ds : List Instr} (hds : ∀ d ∈ ds, isCommand d = true ∧ d.wellFormed = true)
    {more : List Byte} {s : State} {p : SeqPtr} (h : s.AtDescriptor p)
    (hmem : bytesFrom s.cfg s.seqmem p.toNat = sequenceBytes ds ++ more) :
    s.ArrivesAt (p.toNat + (sequenceBytes ds).length) (ds.flatMap descriptorEvents) := by
  induction ds generalizing s p with
  | nil => exact ⟨s, p, .refl s, h, rfl, rfl, rfl, by simp⟩
  | cons d ds ih =>
    obtain ⟨⟨hc, hwf⟩, hrest⟩ := List.forall_mem_cons.mp hds
    have hbytes : sequenceBytes (d :: ds) = descriptorBytes d ++ sequenceBytes ds := List.flatMap_cons
    rw [hbytes, List.append_assoc] at hmem
    rw [hbytes, List.length_append, ← Nat.add_assoc, List.flatMap_cons]
    refine (h.command hc (by rw [hmem, decodeDescriptor_descriptorBytes hc hwf])).trans fun t q hat hq hcfg hm => ?_
    rw [← hq]
    exact ih hrest hat (by rw [hcfg, hm, hq, bytesFrom_past_prefix hmem])

/-! ### Whole sequences (R120, R124, R182) -/

/-- An accepted RUN_SEQ goes through the descriptors from SEQ_START on. -/
theorem runSeq_arrivesAt {s : State} {v : Word} {e : Bool} {x : BitVec 26} {ds : List Instr} {more : List Byte}
    (hi : s.eng = .idle) (ht : s.turns = [.write 0x000#10 4 v]) (hv : decodeCtrl v = .runSeq e x)
    (hds : ∀ d ∈ ds, isCommand d = true ∧ d.wellFormed = true)
    (hmem : bytesFrom s.cfg s.seqmem s.seqStart.toNat = sequenceBytes ds ++ more) :
    s.ArrivesAt (s.seqStart.toNat + (sequenceBytes ds).length) (ds.flatMap descriptorEvents) := by
  obtain ⟨hstep, hturns⟩ := step_lastWrite ht
  obtain ⟨-, hexec, -⟩ := exec_starts_idle e x (s := s.afterTurn) hi
  rw [hv, hexec] at hstep
  have hentry : (seqEntry s).toNat = s.seqStart.toNat := BitVec.toNat_setWidth_of_le (by decide)
  have hstart : s.ArrivesAt s.seqStart.toNat [] :=
    ⟨_, seqEntry s, reaches_step hstep (.refl _), ⟨rfl, by simpa using hturns, by simp [seqEntry]⟩, hentry,
      by simp, by simp, by simp⟩
  refine hstart.trans fun t p hat hp hc hm => ?_
  rw [← hp] at hmem ⊢
  exact hat.sequence hds (by rw [hc, hm, hmem])

/-- Settles O54: past the descriptors the engine finds the sentinel, and then performs `done`. -/
theorem runSeqWholeRun : Obligations.RunSeqWholeRun := by
  intro s v e x ds _ hi ht hv hds hfit hbytes
  have hmem := bytesFrom_split (m := s.seqmem) (n := (sequenceBytes ds).length + 1) hfit
  rw [hbytes, List.append_assoc] at hmem
  obtain ⟨t, p, hst, hat, hp, hc, hm, htr⟩ := runSeq_arrivesAt hi ht hv hds hmem
  have hend : step t = .next { t with sp := p, seqCur := p, pend := [.done] } := by
    rw [hat.step_eq]
    exact runSeqHead_accepted [] (by rw [hc, hm, hp, bytesFrom_past_prefix hmem]; exact decodeDescriptor_end _)
  have hdone := step_action (s := { t with sp := p, seqCur := p, pend := [.done] }) (a := .done) hat.busy hat.alone rfl
    (by simp) (by simp)
  obtain ⟨k, hk⟩ := hst.trans (reaches_step hend (reaches_step hdone (.refl _)))
  exact ⟨k, _, hk, rfl, rfl, htr, hp⟩

/-- Settles O55: past the descriptors the engine finds none, and then performs the fault. -/
theorem runSeqOverrunIsPrecise : Obligations.RunSeqOverrunIsPrecise := by
  intro s v e x ds err _ hi ht hv hds hfit hbytes hover
  have hmem : bytesFrom s.cfg s.seqmem s.seqStart.toNat = sequenceBytes ds ++
      bytesFrom s.cfg s.seqmem (s.seqStart.toNat + (sequenceBytes ds).length) := by
    cases ds with
    | nil => rfl
    | cons d ds => rw [bytesFrom_split (hfit (List.cons_ne_nil d ds)), hbytes]
  obtain ⟨t, p, hst, hat, hp, hc, hm, htr⟩ := runSeq_arrivesAt hi ht hv hds hmem
  have hraise : step t = .next { t with sp := p, seqCur := p, pend := [.fault seqOverrun p] } := by
    rw [hat.step_eq]
    exact runSeqHead_rejected [] (by rw [hc, hm, hp, hover])
  have hfault := step_action (s := { t with sp := p, seqCur := p, pend := [.fault seqOverrun p] })
    (a := .fault seqOverrun p) hat.busy hat.alone rfl (by simp) (by simp)
  obtain ⟨k, hk⟩ := hst.trans (reaches_step hraise (reaches_step hfault (.refl _)))
  exact ⟨k, _, hk, rfl, rfl, rfl, htr, hp, rfl⟩

end Sys2Proof.Machine

/-! PROOFS of the configuration family (spec/41_configuration.md): the two-frame starts from IDLE (R140 to R144). -/

namespace Sys2Proof.Machine

/-- A start accepted after its ERRCLR: what changes besides PEND (R110, R189). -/
theorem accept_applyErrclr {x : Buffer × List Action} {e : Bool} {s : State} {as : List Action}
    (h : (accept x (applyErrclr e s)).pend = as) :
    accept x (applyErrclr e s) =
      { s with reject := !e && s.reject, badop := !e && s.badop, eng := .busy, stage := x.1, pend := as } := by
  rw [← h, applyErrclr_eq]
  rfl

/-- Settles O22: the frame of MADCTL, then the frame of FRMFRAME(F). -/
theorem configureStart : Obligations.ConfigureStart := by
  intro e x s hi
  obtain ⟨-, -, hexec, -⟩ := exec_starts_idle e x hi
  refine ⟨_, hexec.trans (congrArg _ (accept_applyErrclr ((acceptConfigure_pend _).trans ?_)))⟩
  rw [madctlBytes, frmctrBytes_eq, frameActions_cons, frameActions_cons]
  simp [apply_ite (List.map _)]

/-- Settles O23: the two frames of five bytes, whose ends are `windowEnd` of each axis. -/
theorem setWindowStart : Obligations.SetWindowStart := by
  intro e x s hi
  obtain ⟨-, -, -, hexec, -⟩ := exec_starts_idle e x hi
  refine ⟨_, _, _, windowEnd_toNat s.winX s.winW, windowEnd_toNat s.winY s.winH,
    hexec.trans (congrArg _ (accept_applyErrclr ((acceptSetWindow_pend _).trans ?_)))⟩
  simp [rowsetBytes, colsetBytes, frameActions_cons, bytes16]

end Sys2Proof.Machine

/-! PROOFS of the pixel stream family (spec/42_pixel_stream.md): where each pixel of a FILL stands in PEND (R160 to R162). -/

namespace Sys2Proof.Machine

/-- When every block has `c` entries, entry `r` of block `i` of the joined list is entry `c * i + r`. -/
theorem getElem?_flatMap_block {α β : Type} {f : α → List β} {c : Nat} (hf : ∀ a, (f a).length = c) {l : List α}
    {i : Nat} {a : α} (hi : l[i]? = some a) {r : Nat} (hr : r < c) : (l.flatMap f)[c * i + r]? = (f a)[r]? := by
  induction l generalizing i with
  | nil => simp at hi
  | cons b l ih =>
    rw [List.flatMap_cons]
    cases i with
    | zero =>
      obtain rfl : b = a := by simpa using hi
      rw [Nat.mul_zero, Nat.zero_add, List.getElem?_append_left (by rwa [hf])]
    | succ i =>
      have hidx : c * (i + 1) + r = (f b).length + (c * i + r) := by rw [hf]; ring
      rw [hidx, List.getElem?_append_right (Nat.le_add_right _ _), Nat.add_sub_cancel_left]
      exact ih (by simpa using hi)

/-- The block rule twice: entry `r` of the inner block `b` of the outer block `a`. -/
theorem getElem?_flatMap_range_range {β : Type} {f : Nat → Nat → List β} {m n c : Nat}
    (hf : ∀ a b, (f a b).length = c) {a b r : Nat} (ha : a < m) (hb : b < n) (hr : r < c) :
    ((List.range m).flatMap fun a => (List.range n).flatMap (f a))[c * (a * n + b) + r]? = (f a b)[r]? := by
  have hin : c * b + r < c * n := by
    calc c * b + r < c * (b + 1) := by rw [Nat.mul_succ]; omega
      _ ≤ c * n := Nat.mul_le_mul_left c hb
  have hidx : c * (a * n + b) + r = c * n * a + (c * b + r) := by ring
  rw [hidx, getElem?_flatMap_block (by simp [List.length_flatMap, hf, Nat.mul_comm]) (List.getElem?_range ha) hin,
    getElem?_flatMap_block (hf a) (List.getElem?_range hb) hr]

/-- The number of pixels FILL sends before column `i`, row `j` (R162). -/
def pixelPlace (o : FillOrder) (w h i j : Nat) : Nat :=
  match o with
  | .columnMajor => i * h + j
  | .rowMajor => j * w + i

/-- The two bytes of the pixel at column `i`, row `j` stand at its place, in either order (R160, R162). -/
theorem pixelBytes_getElem? (o : FillOrder) {w h i j r : Nat} (hi : i < w) (hj : j < h) (hr : r < 2) :
    (pixelBytes o w h)[2 * pixelPlace o w h i j + r]? = (bytes16 (pattern i j))[r]? := by
  cases o with
  | columnMajor => exact getElem?_flatMap_range_range (f := fun i j => bytes16 (pattern i j)) (fun _ _ => rfl) hi hj hr
  | rowMajor => exact getElem?_flatMap_range_range (f := fun j i => bytes16 (pattern i j)) (fun _ _ => rfl) hj hi hr

/-- The pixel of column `i` is the value 2 * i, high byte first (R64 (a), R161). -/
theorem bytes16_pattern (i j : Nat) :
    bytes16 (pattern i j) = [BitVec.ofNat 8 (2 * i / 256), BitVec.ofNat 8 (2 * i)] := by
  have hhigh : (pattern i j).extractLsb' 8 8 = BitVec.ofNat 8 (2 * i / 256) := by
    apply BitVec.eq_of_toNat_eq
    simp only [pattern, BitVec.extractLsb'_toNat, BitVec.toNat_ofNat, Nat.shiftRight_eq_div_pow]
    omega
  have hlow : (pattern i j).extractLsb' 0 8 = BitVec.ofNat 8 (2 * i) := by
    apply BitVec.eq_of_toNat_eq
    simp only [pattern, BitVec.extractLsb'_toNat, BitVec.toNat_ofNat, Nat.shiftRight_zero]
    omega
  rw [bytes16, hhigh, hlow]

/-- Behind the four opening actions of a FILL stand its data bytes, one TX each (R160). -/
theorem acceptFill_pend_getElem? {s : State} {n : Nat} {b : Byte} (h : (fillBytes s)[n]? = some b) :
    (acceptFill s).pend[4 + n]? = some (.ev (.tx b)) := by
  obtain ⟨hn, -⟩ := List.getElem?_eq_some_iff.mp h
  rw [acceptFill_pend, List.append_assoc, List.append_assoc, List.getElem?_append_right (Nat.le_add_right 4 n),
    List.getElem?_append_left (by simpa using hn)]
  simp [h]

/-- Settles O25: the pixel's bytes stand at `pixelPlace` in `fillBytes`, which PEND holds behind the opening actions. -/
theorem fillPixelAtItsPlace : Obligations.FillPixelAtItsPlace := by
  intro e x s hidle i j hi hj
  obtain ⟨-, -, -, -, hexec⟩ := exec_starts_idle e x hidle
  have hbyte {r : Nat} (hr : r < 2) :
      (fillBytes (applyErrclr e s))[2 * pixelPlace s.cfg.fillOrder s.winW.toNat s.winH.toNat i j + r]? =
        [BitVec.ofNat 8 (2 * i / 256), BitVec.ofNat 8 (2 * i)][r]? := by
    rw [fillBytes, applyErrclr_cfg, applyErrclr_winW, applyErrclr_winH, pixelBytes_getElem? _ hi hj hr, bytes16_pattern]
  exact ⟨_, hexec, _, rfl, acceptFill_pend_getElem? (hbyte Nat.zero_lt_two),
    acceptFill_pend_getElem? (hbyte Nat.one_lt_two)⟩

end Sys2Proof.Machine

/-! PROOFS of the exceptions family (spec/60_exceptions.md): reserved OP values, fault entry and exit, the sticky error
flags, quiescence. First what a step does to REJECT and BADOP, and what it can do while the engine is not BUSY. -/

namespace Sys2Proof.Machine

/-! ### The error flags (R22, R186, R187) -/

/-- The next turn asks for a reset: RST_N, or a CTRL write with SRST (R22, R220). -/
def State.AsksReset (s : State) : Prop :=
  s.nextTurn = .rstN ∨ ∃ w, s.nextTurn.ctrlWord? = some w ∧ w.getLsbD 31 = true

/-- The next turn is a CTRL write that clears the error flags (R22). -/
def State.AsksErrclr (s : State) : Prop :=
  ∃ w, s.nextTurn.ctrlWord? = some w ∧ w.getLsbD 31 = false ∧ w.getLsbD 30 = true

/-- REJECT, BADOP and the number of the last reset: what only a CTRL write or RST_N touches. -/
def State.flags (s : State) : Bool × Bool × Nat := (s.reject, s.badop, s.draws)

theorem tickAction_flags (s : State) : (tickAction s).flags = s.flags := by
  simp [State.flags]

theorem perform_flags (a : Action) (rest : List Action) (s : State) : (perform a rest s).flags = s.flags := by
  cases a with
  | ev e => cases e <;> rfl
  | hold n => rw [perform_hold]; split <;> rfl
  | _ => rfl

/-- A set error flag of `s` is still set in `t`. -/
def State.KeepsSetFlags (s t : State) : Prop :=
  (s.reject = true → t.reject = true) ∧ (s.badop = true → t.badop = true)

/-- A CTRL write resets by its SRST bit, or draws no new STAGE and then keeps a set flag unless its ERRCLR bit clears it
(R22, R186, R187). -/
theorem exec_ctrl_flags {w : Word} {s t : State} (h : exec (decodeCtrl w) s = .next t) :
    (w.getLsbD 31 = true ∧ t = resetAction s) ∨
    (t.draws = s.draws ∧ ((w.getLsbD 31 = false ∧ w.getLsbD 30 = true) ∨ s.KeepsSetFlags t)) := by
  obtain ⟨t', ht', hc⟩ := exec_ctrl_cases w s
  obtain rfl := Host.Outcome.next.inj (h.symm.trans ht')
  rcases hc with ⟨-, -, rfl⟩ | ⟨h31, -, rfl⟩ | ⟨h31, hop⟩
  · exact .inr ⟨rfl, .inr ⟨fun _ => rfl, id⟩⟩
  · exact .inl ⟨h31, rfl⟩
  · have hdraws : t.draws = s.draws := by
      rcases hop with rfl | rfl | ⟨-, rfl⟩ | ⟨-, f, hf, rfl⟩
      · simp
      · simp
      · simp
      · exact (congrArg State.draws (acceptance_applyErrclr hf _ s).2 :)
    refine .inr ⟨hdraws, ?_⟩
    cases h30 : w.getLsbD 30 with
    | true => exact .inl ⟨h31, rfl⟩
    | false =>
      rw [h30] at hop
      rcases hop with rfl | rfl | ⟨-, rfl⟩ | ⟨-, f, hf, rfl⟩
      · exact .inr ⟨id, id⟩
      · exact .inr ⟨id, fun _ => rfl⟩
      · exact .inr ⟨fun _ => rfl, id⟩
      · obtain ⟨-, hframe⟩ := acceptance_applyErrclr hf false s
        rw [hframe]
        exact .inr ⟨id, id⟩

/-- A step resets as it was asked to, or draws no new STAGE and then keeps a set error flag unless ERRCLR clears it. -/
theorem step_resets_or_keeps_flags {s t : State} (hst : step s = .next t) :
    (s.AsksReset ∧ t = resetAction s.afterTurn) ∨ (t.draws = s.draws ∧ (s.AsksErrclr ∨ s.KeepsSetFlags t)) := by
  have keep {u : State} (hu : u.flags = s.flags) : u.draws = s.draws ∧ (s.AsksErrclr ∨ s.KeepsSetFlags u) := by
    obtain ⟨hreject, hbadop, hdraws⟩ : u.reject = s.reject ∧ u.badop = s.badop ∧ u.draws = s.draws := by
      simpa [State.flags] using hu
    exact ⟨hdraws, .inr ⟨hreject.trans, hbadop.trans⟩⟩
  rcases step_cases hst with ⟨w, hw, hexec⟩ | ⟨off, bytes, v, -, -, rfl⟩ | ⟨off, bytes, -, rfl⟩ | ⟨-, rfl⟩ |
    ⟨hn, rfl⟩ | ⟨-, -, rfl⟩ | ⟨-, -, a, rest, -, -, rfl⟩ | ⟨-, -, p, rest, -, hr⟩
  · rcases exec_ctrl_flags hexec with ⟨h31, ht⟩ | ⟨hdraws, hclr | hkeep⟩
    · exact .inl ⟨.inr ⟨w, hw, h31⟩, ht⟩
    · exact .inr ⟨hdraws, .inl ⟨w, hw, hclr⟩⟩
    · exact .inr ⟨hdraws, .inr hkeep⟩
  · exact .inr (keep (congrArg State.flags (writeReg_frame off v s.afterTurn) :))
  · exact .inr (keep rfl)
  · exact .inr (keep (tickAction_flags s.afterTurn))
  · exact .inl ⟨.inl hn, rfl⟩
  · exact .inr (keep rfl)
  · exact .inr (keep (perform_flags a rest s.afterTurn))
  · obtain ⟨st, ht, -⟩ := runSeqHead_writtenOut hr
    exact .inr (keep (congrArg State.flags ht :))

/-- Settles O48: a step that clears a flag does not keep it, so it was a reset or ERRCLR. -/
theorem errorFlagsAreSticky : Obligations.ErrorFlagsAreSticky := by
  intro s t hst hclear
  rcases step_resets_or_keeps_flags hst with ⟨hask, rfl⟩ | ⟨-, hask | ⟨hreject, hbadop⟩⟩
  · exact .inr ⟨rfl, hask⟩
  · exact .inl hask
  · rcases hclear with ⟨hset, hclr⟩ | ⟨hset, hclr⟩
    · simp [hreject hset] at hclr
    · simp [hbadop hset] at hclr

/-- Settles O18: both rows are `setBadop` after ERRCLR, whatever the OP bits they leave open. -/
theorem reservedOpSetsBadop : Obligations.ReservedOpSetsBadop := by
  intro e x s
  have h := congrArg (fun u => Host.Outcome.next (φ := Fault) (ρ := Refusal) (setBadop u)) (applyErrclr_eq e s)
  exact ⟨fun _ => h, fun _ => h⟩

/-! ### Fault entry, and an engine that is not BUSY (R183 to R185, R192, R200) -/

/-- Settles O30: PEND closes as the lines stand, so before a fault both are high. -/
theorem faultEntry : Obligations.FaultEntry := by
  intro s c p rest later h hb hp ht
  have hc := h.busy hb
  rw [hp] at hc
  simp only [closes, Bool.and_eq_true, beq_iff_eq] at hc
  obtain ⟨⟨⟨-, hcs⟩, hdc⟩, -⟩ := hc
  exact ⟨hcs, hdc, step_engine hb ht hp (by simp)⟩

/-- While ENG is not BUSY a step is a reset that was asked for, an accepted start from IDLE, which emits nothing, or
leaves ENG, the trace, CAUSE and the pointers as they were (R111, R184, R200). -/
theorem step_not_busy {s t : State} (hq : s.eng ≠ .busy) (hst : step s = .next t) :
    (s.AsksReset ∧ t = resetAction s.afterTurn) ∨ (s.eng = .idle ∧ t.tr = s.tr) ∨
    (t.eng = s.eng ∧ t.tr = s.tr ∧ t.cause = s.cause ∧ t.faultPtr = s.faultPtr ∧ t.seqCur = s.seqCur ∧ t.sp = s.sp) := by
  rcases step_effect hst with hv | ⟨hi, f, hf, e, rfl⟩ | ⟨-, ht⟩ | rfl | ⟨-, hb, -⟩ | ⟨-, hb, -⟩
  · exact .inr (.inr ⟨(congrArg State.eng hv :), (congrArg State.tr hv :), (congrArg State.cause hv :),
      (congrArg State.faultPtr hv :), (congrArg State.seqCur hv :), (congrArg State.sp hv :)⟩)
  · exact .inr (.inl ⟨hi, (congrArg State.tr (acceptance_applyErrclr hf e s.afterTurn).2 :)⟩)
  · rcases step_resets_or_keeps_flags hst with hreset | ⟨hdraws, -⟩
    · exact .inl hreset
    · simp [ht] at hdraws
  · exact .inr (.inr (by simp))
  · exact absurd hb hq
  · exact absurd hb hq

/-- Settles O31: of the ways `step_not_busy` gives, a start needs IDLE, and the last keeps the fault record and the trace. -/
theorem faultIsLeftOnlyByReset : Obligations.FaultIsLeftOnlyByReset := by
  intro s t hf hst
  rcases step_not_busy (by simp [hf]) hst with ⟨hask, rfl⟩ | ⟨hi, -⟩ | ⟨heng, hkept⟩
  · exact .inr ⟨rfl, rfl, rfl, rfl, hask⟩
  · simp [hf] at hi
  · exact .inl ⟨heng.trans hf, hkept⟩

/-- Settles O49: of the ways `step_not_busy` gives, only the reset writes the trace. -/
theorem quiescentBlockEmitsNothing : Obligations.QuiescentBlockEmitsNothing := by
  intro s t hq hst
  have hnb : s.eng ≠ .busy := bne_iff_ne.mp (Bool.and_eq_true_iff.mp hq).1
  rcases step_not_busy hnb hst with ⟨hask, rfl⟩ | ⟨-, htr⟩ | ⟨-, htr, -⟩
  · exact .inr ⟨rfl, hask⟩
  · exact .inl htr
  · exact .inl htr

end Sys2Proof.Machine

/-! PROOFS of the reset family (spec/70_reset_and_hazards.md): the ways a step takes the reset action. -/

namespace Sys2Proof.Machine

/-- SRST is refused while the engine is BUSY (R186). -/
theorem exec_srst_busy (x : BitVec 31) {s : State} (hb : s.eng = .busy) : exec (.srst x) s = .next (setReject s) :=
  congrArg Host.Outcome.next (if_pos hb)

/-- SRST resets an engine that is not BUSY (R221). -/
theorem exec_srst_not_busy (x : BitVec 31) {s : State} (hnb : s.eng ≠ .busy) :
    exec (.srst x) s = .next (resetAction s) :=
  congrArg Host.Outcome.next (if_neg hnb)

/-- RST_N resets, whatever the engine is doing (R220). -/
theorem step_rstN {s : State} (hn : s.nextTurn = .rstN) : step s = .next (resetAction s.afterTurn) := by
  rw [step_eq, hn]
  rfl

/-- Settles O9: an accepted SRST and RST_N both end in `resetAction`, whose fields are R48's table around the free STAGE it
draws; a refused SRST ends in `setReject`. The obligation's own name in lower case is the model's `resetAction`. -/
theorem resetAction_spec : Obligations.ResetAction := by
  refine ⟨fun x s hnb => ?accepted, fun x s hb => ?refused, fun s hn => ?hardware⟩
  case accepted => exact ⟨(resetAction s).stage, (resetAction s).draws, exec_srst_not_busy x hnb⟩
  case refused => exact exec_srst_busy x hb
  case hardware => exact ⟨(resetAction s.afterTurn).stage, (resetAction s.afterTurn).draws, step_rstN hn⟩

end Sys2Proof.Machine
